-- ==== Sys2Proof/Word.lean ====
section
/-! DEFINITION. The word types of the block (00_scope.md R15): u8, u16 and u32 are bit vectors; an i8 or an i16 is the
same bits, read as two's complement only where a host asks for the signed value. -/

namespace Sys2Proof

/-- One byte (u8, or the bits of an i8). -/
abbrev Byte := BitVec 8

/-- Sixteen bits (u16, or the bits of an i16): the reserved slot of a record. -/
abbrev Half := BitVec 16

/-- One 32-bit word: a register of the window, a command word, a CRC, the bits of an IEEE-754 single. -/
abbrev Word := BitVec 32

end Sys2Proof
end

