-- ==== Sys2Proof/Syntax.lean ====
section
/-! DEFINITION. The twelve operations of spec/opcode_table.json as one inductive type, the transactions that carry
them (the host bus and the event ports, 42_transport_ports.md R140), what the two decoders of 30_encoding.md R86
answer, and the registers of the window (10_state.md R22). -/

namespace Sys2Proof

/-- One operation of the block, one constructor per row of spec/opcode_table.json (30_encoding.md R79, R84). -/
inductive Instr where
  /-- INIT (44_session.md R181). -/
  | init
  /-- PACK (41_frame_codec.md R122). -/
  | pack
  /-- SEND (44_session.md R183). -/
  | send
  /-- VALIDATE (40_crc_validator.md R105). -/
  | validate
  /-- CLRERR (44_session.md R186). -/
  | clrerr
  /-- DECODE, the receive service's step (44_session.md R194). -/
  | decode
  /-- TICK (43_link_supervisor.md R163). -/
  | tick
  /-- RX_ARRIVE(len, bytes) (42_transport_ports.md R141); `len` is the number of bytes delivered (log 7). -/
  | rxArrive (bytes : List Byte)
  /-- TX_DONE (42_transport_ports.md R146). -/
  | txDone
  /-- RESET, the reset input (70_reset_and_hazards.md R250). -/
  | reset
  /-- REG_RD(o), a 32-bit host read (44_session.md R187). -/
  | regRd (offset : BitVec 8)
  /-- REG_WR(o, v), a 32-bit host write (44_session.md R188). -/
  | regWr (offset : BitVec 8) (data : Word)
deriving DecidableEq, Repr

/-- What an agent hands the block in one step (42_transport_ports.md R140, 00_scope.md R14). -/
inductive Transaction where
  /-- A host bus transaction: the 11-bit descriptor and the 32-bit data word (30_encoding.md R84). A read carries no
  data: the word is then not looked at (log 14). -/
  | bus (descriptor : BitVec 11) (data : Word)
  /-- An event on a port, or a step offered to the receive service: the event code (30_encoding.md R81) and the bytes
  delivered with it, which only RX_ARRIVE has (log 14). -/
  | event (code : Word) (bytes : List Byte)
deriving DecidableEq, Repr

/-- What the command-word decoder of 30_encoding.md R86 answers. -/
inductive Command where
  | init
  | pack
  | send
  | validate
  | clrerr
  | eventOnly
  | illegal
deriving DecidableEq, Repr

/-- What the descriptor decoder of 30_encoding.md R86 answers. -/
inductive BusAccess where
  | regRd (offset : BitVec 8)
  | regWr (offset : BitVec 8)
  | badAccess
deriving DecidableEq, Repr

/-- Why a transaction stands for no operation of the opcode table. -/
inductive Reject where
  /-- A bus transaction that is no register access: SIZE not 32 bits, or a misaligned offset (30_encoding.md R84). The
  block answers it with the error BAD_ACCESS (20_memory.md R54). -/
  | badAccess
  /-- An event code that no port has (30_encoding.md R81; log 8). -/
  | unknownEvent
deriving DecidableEq, Repr

/-- The registers of the host's window (10_state.md R22). -/
inductive Reg where
  | ctrl
  | status
  | errcode
  | cmd
  | threshold
  | linkCnt
  | linkThr
  | inrecHdr
  | inrecPitch
  | inrecYaw
  | inrecCrc
  | outrecHdr
  | outrecPitch
  | outrecYaw
  | outrecCrc
  | txbuf (k : Fin 4)
  | rxbuf (k : Fin 4)
deriving DecidableEq, Repr

end Sys2Proof
end

