-- ==== Sys2Proof/WellFormed.lean ====
section
/-! DEFINITION. Which instructions are well formed: those a transaction can carry, each in the one spelling the decoder
gives it. -/

namespace Sys2Proof

/-- The command words a host may issue (30_encoding.md R80). -/
def hostCommandWords : List Word := [1, 2, 3, 4, 5]

/-- The offset of the CMD register (10_state.md R36). -/
def cmdOffset : BitVec 8 := 0x0C

/-- An offset a register access may carry: a multiple of 4 (30_encoding.md R84, 20_memory.md R54). -/
def alignedOffset (o : BitVec 8) : Bool := o.extractLsb' 0 2 == 0

/-- Well-formedness: RX_ARRIVE delivers 16 bytes (42_transport_ports.md R143), a register access is aligned
(30_encoding.md R84), and a write of a host command word to CMD is spelt as that command (30_encoding.md R78; log 9). -/
def Instr.wellFormed : Instr → Bool
  | .init => true
  | .pack => true
  | .send => true
  | .validate => true
  | .clrerr => true
  | .decode => true
  | .tick => true
  | .rxArrive bytes => bytes.length == 16
  | .txDone => true
  | .reset => true
  | .regRd o => alignedOffset o
  | .regWr o v => alignedOffset o && !(o == cmdOffset && hostCommandWords.contains v)

end Sys2Proof
end

