-- ==== Sys2Proof/Decode.lean ====
section
/-! DEFINITION. The two decoders of 30_encoding.md R86 (command word, bus descriptor), the event codes of R79 and R81,
their composition into one total decoder of transactions, and the encoder written from the same tables (R79, R84, R88). -/

namespace Sys2Proof

/-- The command-word decoder (30_encoding.md R86; R79 to R82): total over the 2^32 words. -/
def decodeCommand (c : Word) : Command :=
  if c.extractLsb' 8 24 ≠ 0 then .illegal
  else match (c.extractLsb' 0 8).toNat with
    | 0x01 => .init
    | 0x02 => .pack
    | 0x03 => .send
    | 0x04 => .validate
    | 0x05 => .clrerr
    | 0x80 => .eventOnly
    | 0x81 => .eventOnly
    | 0x82 => .eventOnly
    | 0x83 => .eventOnly
    | 0x84 => .eventOnly
    | _ => .illegal

/-- The descriptor decoder (30_encoding.md R84, R86): SIZE = d[10:9], W = d[8], OFFSET = d[7:0]. -/
def decodeDescriptor (d : BitVec 11) : BusAccess :=
  if d.extractLsb' 9 2 = 0b10 ∧ d.extractLsb' 0 2 = 0 then
    if d.extractLsb' 8 1 = 1 then .regWr (d.extractLsb' 0 8) else .regRd (d.extractLsb' 0 8)
  else .badAccess

/-- The operation a host write of `c` to CMD stands for: the command, or a register write that its meaning turns into an
error (30_encoding.md R78, 44_session.md R192). -/
def decodeCmdWrite (c : Word) : Instr :=
  match decodeCommand c with
  | .init => .init
  | .pack => .pack
  | .send => .send
  | .validate => .validate
  | .clrerr => .clrerr
  | .eventOnly => .regWr cmdOffset c
  | .illegal => .regWr cmdOffset c

/-- The operation an event code stands for (30_encoding.md R79, R81), `none` for a code no port has. -/
def decodeEvent (code : Word) (bytes : List Byte) : Option Instr :=
  match code.toNat with
  | 0x80 => some .decode
  | 0x81 => some .tick
  | 0x82 => some (.rxArrive bytes)
  | 0x83 => some .txDone
  | 0x84 => some .reset
  | _ => none

/-- The decoder of transactions, total, rejecting by name. -/
def decode : Transaction → Except Reject Instr
  | .bus d v =>
    match decodeDescriptor d with
    | .regRd o => .ok (.regRd o)
    | .regWr o => .ok (if o = cmdOffset then decodeCmdWrite v else .regWr o v)
    | .badAccess => .error .badAccess
  | .event code bytes =>
    match decodeEvent code bytes with
    | some i => .ok i
    | none => .error .unknownEvent

/-- The descriptor of a 32-bit read of offset `o`: SIZE = 0b10, W = 0, so `0x400 | o` (30_encoding.md R84). -/
def readDescriptor (o : BitVec 8) : BitVec 11 := 0x400 ||| o.setWidth 11

/-- The descriptor of a 32-bit write of offset `o`: SIZE = 0b10, W = 1, so `0x500 | o` (30_encoding.md R84). -/
def writeDescriptor (o : BitVec 8) : BitVec 11 := 0x500 ||| o.setWidth 11

/-- The transaction that issues the host command word `c`: descriptor 0x50C with `c` as its data (30_encoding.md R88). -/
def commandWrite (c : Word) : Transaction := .bus (writeDescriptor cmdOffset) c

/-- The encoder, from the tables of 30_encoding.md R79, R84 and R88. -/
def encode : Instr → Transaction
  | .init => commandWrite 0x00000001
  | .pack => commandWrite 0x00000002
  | .send => commandWrite 0x00000003
  | .validate => commandWrite 0x00000004
  | .clrerr => commandWrite 0x00000005
  | .decode => .event 0x00000080 []
  | .tick => .event 0x00000081 []
  | .rxArrive bytes => .event 0x00000082 bytes
  | .txDone => .event 0x00000083 []
  | .reset => .event 0x00000084 []
  | .regRd o => .bus (readDescriptor o) 0
  | .regWr o v => .bus (writeDescriptor o) v

/-- The 16 delivered bytes that follow the 32-bit event code of RX_ARRIVE when a whole transaction is numbered as one
number (log 7). -/
def tableFrame (w : Nat) : List Byte := (List.range 16).map fun k => BitVec.ofNat 8 (w >>> (32 + 8 * k))

/-- The transaction a row of the opcode table stands for: a BUS11 row is a bus transaction, an EVENT row arrives on its
port, every other command word is a host write to CMD (opcode_table.json, "issued_by"; log 15). -/
def tableTransaction (nbits w : Nat) : Transaction :=
  if nbits ≤ 16 then .bus (BitVec.ofNat 11 w) 0
  else match decodeCommand (BitVec.ofNat 32 w) with
    | .eventOnly => .event (BitVec.ofNat 32 w) (if w % 2 ^ 32 = 0x82 then tableFrame w else [])
    | .init => commandWrite (BitVec.ofNat 32 w)
    | .pack => commandWrite (BitVec.ofNat 32 w)
    | .send => commandWrite (BitVec.ofNat 32 w)
    | .validate => commandWrite (BitVec.ofNat 32 w)
    | .clrerr => commandWrite (BitVec.ofNat 32 w)
    | .illegal => commandWrite (BitVec.ofNat 32 w)

/-- The instruction the decoder reads from a word of the opcode table: `none` for a word that is no row's (an illegal
command word, a descriptor that is no register access, bits above the row's width). -/
def decodeTableWord (nbits w : Nat) : Option Instr :=
  if nbits ≤ 16 then
    if w < 2 ^ 11 then (decode (tableTransaction nbits w)).toOption else none
  else if 2 ^ 32 ≤ w ∧ w % 2 ^ 32 ≠ 0x82 then none
  else if decodeCommand (BitVec.ofNat 32 w) = .illegal then none
  else (decode (tableTransaction nbits w)).toOption

end Sys2Proof
end

