-- ==== Sys2Proof/Config.lean ====
section
/-! DEFINITION. The implementation parameters of the block (00_scope.md R8 to R11, 20_memory.md R58; 10_state.md R48:
not state, but parameters of every step). The machine runs under `Config.hw`, which has no body: a claim about the
machine is a claim for every value of every parameter (log 1). -/

namespace Sys2Proof

/-- P_TRANSPORT (00_scope.md R11): no rule of the block depends on it. -/
inductive Transport where
  | dmaUart
  | usbVcp
deriving DecidableEq, Repr, Inhabited

/-- The parameters a step takes (10_state.md R48). -/
structure Config where
  /-- P_RX_SOF, the expected inbound sentinel (00_scope.md R8). -/
  rxSof : Byte
  /-- P_TX_SOF, the reset value of OUTREC.SOF (00_scope.md R10). -/
  txSof : Byte
  /-- P_CRC_WORDS, the CRC32 compute primitive: a total function of its word list (00_scope.md R9, 40_crc_validator.md
  R102 property CRC_DETERMINISTIC). -/
  crcWords : List Word → Word
  /-- P_TRANSPORT (00_scope.md R11); read by no rule. -/
  transport : Transport
  /-- P_BASE, where the register window sits in the host's address space (20_memory.md R58); read by no rule. -/
  base : Nat
deriving Inhabited

/-- DESIGN CHOICE (log 1): the machine's own parameters, uninterpreted. -/
opaque Config.hw : Config

end Sys2Proof
end

