-- ==== Sys2Proof/Machine/State.lean ====
section
/-! DEFINITION. The state of the block as plain data (10_state.md R20), its reset (R46), the reasons a step can stop, and
the events and error codes the state records (00_scope.md R17, 60_exceptions.md R224). -/

namespace Sys2Proof.Machine

/-- A 16-byte frame buffer (20_memory.md R50) as a list of (address, byte) cells in one canonical form
(`Memory.wf`, Machine/Ops.lean); an unlisted address reads 0x00, the reset contents of 10_state.md R46 (log 11). -/
abbrev Memory := List Host.Cell

/-- An address of a frame buffer: 0 to 15, and no other exists (20_memory.md R50, 41_frame_codec.md R129). -/
abbrev FrameAddr := Fin 16

/-- The error codes (60_exceptions.md R224); code 0, NONE, is the absence of an error. -/
inductive ErrCode where
  | illegalCmd
  | eventOnlyCmd
  | notInit
  | alreadyInit
  | badThreshold
  | txOverrun
  | badAccess
deriving DecidableEq, Repr

/-- What a diagnostic says: LINK_OFFLINE is the document's "link offline, restarting communication"
(60_exceptions.md R242). -/
inductive DiagCode where
  | linkOffline
deriving DecidableEq, Repr

/-- The events the block emits (00_scope.md R17). -/
inductive Event where
  | crcCall (words : List Word) (result : Word)
  | txSend (bytes : List Byte)
  | reinitReq
  | diag (code : DiagCode)
  | errorRaised (code : ErrCode)
deriving DecidableEq, Repr

/-- The one-bit fields of STATUS (10_state.md R24); STATUS[31:7] is not stored and reads 0 (R45). -/
structure Status where
  initDone : Bool
  inrecValid : Bool
  stale : Bool
  txBusy : Bool
  rxPending : Bool
  validResult : Bool
  err : Bool
deriving DecidableEq, Repr

/-- The inbound record slot INREC (10_state.md R20, R39, R40, R47). -/
structure InRec where
  sof : Byte
  fire : Byte
  pitch : Word
  yaw : Word
  rsvd : Half
  crc : Word
deriving DecidableEq, Repr

/-- The outbound record OUTREC (10_state.md R20, R32, R33); its CRC is OUTREC_CRC. -/
structure OutRec where
  sof : Byte
  fire : Byte
  pitch : Word
  yaw : Word
  rsvd : Half
deriving DecidableEq, Repr

/-- The state of the block (10_state.md R20), and the model's two own fields, `schedule` and `readLog`. -/
structure State where
  /-- CTRL.RX_HOLD (R23); CTRL[31:1] is not stored and reads 0 (R45). -/
  rxHold : Bool
  /-- STATUS (R24). -/
  status : Status
  /-- ERRCODE.CODE (R35); ERRCODE[31:4] is not stored and reads 0 (R45). -/
  errcode : BitVec 4
  /-- THRESHOLD (R28). -/
  threshold : Word
  /-- LINK_CNT, the reload counter (R37). -/
  linkCnt : Word
  /-- LINK_THR, the threshold latched at INIT (R38). -/
  linkThr : Word
  /-- INREC (R39, R40). -/
  inrec : InRec
  /-- OUTREC (R32, R33). -/
  outrec : OutRec
  /-- OUTREC_CRC (R34). -/
  outrecCrc : Word
  /-- TXBUF, the persistent transmit buffer (R41). -/
  txbuf : Memory
  /-- RXBUF, the received-frame buffer (R42). -/
  rxbuf : Memory
  /-- HIST, every event emitted, oldest first (R43). -/
  hist : List Event
  /-- FAULTS, every error code raised, oldest first (R43). -/
  faults : List ErrCode
  /-- The model's own: the transactions still to come, in the order the agents take their steps (20_memory.md R61;
  log 2). -/
  schedule : List Transaction
  /-- The model's own: the words register reads have returned to the host, oldest first (44_session.md R187; log 5). -/
  readLog : List Word
deriving DecidableEq, Repr

/-- The machine stops on no fault: "No condition in this subsystem is fatal/crashing by design" (60_exceptions.md R223,
R243), so there is no reason to name. -/
inductive Fault where
deriving DecidableEq, Repr

/-- Why a step is given no meaning. -/
inductive Refusal where
  /-- Raised by an arm of `exec` whose instruction has no meaning yet (none is left). Safe. -/
  | notModelled (mnemonic : String)
  /-- Raised by RX_ARRIVE when the number of bytes delivered is not 16: the spec itself refuses the step
  (42_transport_ports.md R143, 60_exceptions.md R232; log 6). Safe. -/
  | rxLength
  /-- Raised by `step` on an event code that no port has: it is no operation of the block (30_encoding.md R81; log 8).
  Safe. -/
  | noSuchEvent
deriving DecidableEq, Repr

/-- STATUS after reset: every field 0 (10_state.md R46). -/
def Status.reset : Status :=
  { initDone := false, inrecValid := false, stale := false, txBusy := false, rxPending := false, validResult := false,
    err := false }

/-- INREC after reset: every field 0 (10_state.md R46). -/
def InRec.reset : InRec := { sof := 0, fire := 0, pitch := 0, yaw := 0, rsvd := 0, crc := 0 }

/-- OUTREC after reset: SOF is P_TX_SOF, the other fields 0 (10_state.md R46). -/
def OutRec.reset (cfg : Config) : OutRec := { sof := cfg.txSof, fire := 0, pitch := 0, yaw := 0, rsvd := 0 }

/-- The state right after reset under the parameters `cfg` (10_state.md R46). HIST, FAULTS and the model's own lists
start empty (log 2, 5, 10). -/
def State.resetWith (cfg : Config) : State :=
  { rxHold := false, status := Status.reset, errcode := 0, threshold := 10, linkCnt := 0, linkThr := 0,
    inrec := InRec.reset, outrec := OutRec.reset cfg, outrecCrc := 0, txbuf := [], rxbuf := [], hist := [],
    faults := [], schedule := [], readLog := [] }

/-- The machine right after reset (10_state.md R46). -/
def State.reset : State := State.resetWith Config.hw

end Sys2Proof.Machine
end

