-- ==== Sys2Proof/Machine/Flags.lean ====
section
/-! DEFINITION. The status flags and the error latch: how each STATUS field is set and cleared (10_state.md R24 to R31), the
word STATUS reads as, and the codes ERRCODE latches (R35, 60_exceptions.md R224). -/

namespace Sys2Proof.Machine

/-! ### What sets and what clears each field (10_state.md R24) -/

/-- INIT sets INIT_DONE and clears STALE (44_session.md R181). -/
def Status.afterInit (f : Status) : Status := { f with initDone := true, stale := false }

/-- A decode success sets INREC_VALID and clears STALE (44_session.md R194). -/
def Status.afterDecodeSuccess (f : Status) : Status := { f with inrecValid := true, stale := false }

/-- An expiry sets STALE (43_link_supervisor.md R165). -/
def Status.setStale (f : Status) : Status := { f with stale := true }

/-- SEND sets TX_BUSY (44_session.md R183), TX_DONE clears it (42_transport_ports.md R146). -/
def Status.setTxBusy (f : Status) (v : Bool) : Status := { f with txBusy := v }

/-- RX_ARRIVE sets RX_PENDING (42_transport_ports.md R141), DECODE clears it (44_session.md R194). -/
def Status.setRxPending (f : Status) (v : Bool) : Status := { f with rxPending := v }

/-- VALIDATE writes VALID_RESULT (40_crc_validator.md R105). -/
def Status.setValidResult (f : Status) (v : Bool) : Status := { f with validResult := v }

/-- An error sets ERR (60_exceptions.md R223). -/
def Status.setErr (f : Status) : Status := { f with err := true }

/-- CLRERR clears ERR (44_session.md R186). -/
def Status.clearErr (f : Status) : Status := { f with err := false }

/-! ### Words -/

/-- A word with the flag `b` at bit `i` and 0 elsewhere. -/
def flagBit (b : Bool) (i : Nat) : Word := (if b then 1 else 0) <<< i

/-- The word STATUS reads as: bits 0 to 6 as the table of 10_state.md R24 places them, bits 31:7 read 0 (R45). -/
def Status.word (f : Status) : Word :=
  flagBit f.initDone 0 ||| flagBit f.inrecValid 1 ||| flagBit f.stale 2 ||| flagBit f.txBusy 3 |||
    flagBit f.rxPending 4 ||| flagBit f.validResult 5 ||| flagBit f.err 6

/-- The 4-bit code of an error (60_exceptions.md R224). -/
def ErrCode.bits : ErrCode → BitVec 4
  | .illegalCmd => 1
  | .eventOnlyCmd => 2
  | .notInit => 3
  | .alreadyInit => 4
  | .badThreshold => 5
  | .txOverrun => 6
  | .badAccess => 7

/-- First error wins: a later error does not overwrite a non-zero CODE (10_state.md R35). -/
def latchFirst (held : BitVec 4) (code : ErrCode) : BitVec 4 := if held = 0 then code.bits else held

end Sys2Proof.Machine
end

