-- ==== Sys2Proof/Machine/Ops.lean ====
section
/-! DEFINITION. The operations the meanings share: reading and writing a frame buffer (00_scope.md R16, 20_memory.md
R51), emitting an event (R17), raising an error (60_exceptions.md R223) and clearing the latch (R236), and answering a
host read. -/

namespace Sys2Proof.Machine

/-! ### Frame buffers -/

/-- The canonical form of a frame buffer: addresses strictly rising, all of them addresses of the buffer, and no entry
equal to what an unlisted address reads as. -/
abbrev Memory.wf (m : Memory) : Prop :=
  m.Pairwise (fun c d => c.1 < d.1) ∧ ∀ c ∈ m, c.1 < 16 ∧ c.2 ≠ 0#8

/-- The byte at address `k` of a list of cells; an unlisted address reads 0x00 (10_state.md R46; log 11). -/
def Memory.lookup : Memory → Nat → Byte
  | [], _ => 0#8
  | (a, b) :: rest, k => if a = k then b else Memory.lookup rest k

/-- `B[a]`, byte `a` of a frame buffer (00_scope.md R16). -/
def Memory.read (m : Memory) (a : FrameAddr) : Byte := m.lookup a

/-- The cells with byte `v` at address `k`: a 0x00 removes the entry, so the form stays canonical. -/
def Memory.insert : Memory → Nat → Byte → Memory
  | [], k, v => if v = 0#8 then [] else [(k, v)]
  | (a, b) :: rest, k, v =>
    if k < a then if v = 0#8 then (a, b) :: rest else (k, v) :: (a, b) :: rest
    else if a = k then if v = 0#8 then rest else (k, v) :: rest
    else (a, b) :: Memory.insert rest k v

/-- `B[a] <- v` (00_scope.md R16). -/
def Memory.write (m : Memory) (a : FrameAddr) (v : Byte) : Memory := m.insert a v

/-- `MemWrite(buf, o, 2, v)`: the less significant byte at the lower offset (00_scope.md R16, 20_memory.md R51). -/
def Memory.write16 (m : Memory) (o : Nat) (v : Half) (h : o + 1 < 16 := by decide) : Memory :=
  (m.write ⟨o, by omega⟩ (v.extractLsb' 0 8)).write ⟨o + 1, by omega⟩ (v.extractLsb' 8 8)

/-- `MemWrite(buf, o, 4, v)`: the least significant byte at `o` (00_scope.md R16, 20_memory.md R51). -/
def Memory.write32 (m : Memory) (o : Nat) (v : Word) (h : o + 3 < 16 := by decide) : Memory :=
  (((m.write ⟨o, by omega⟩ (v.extractLsb' 0 8)).write ⟨o + 1, by omega⟩ (v.extractLsb' 8 8)).write
    ⟨o + 2, by omega⟩ (v.extractLsb' 16 8)).write ⟨o + 3, by omega⟩ (v.extractLsb' 24 8)

/-- The cells of the bytes `bs` laid out from address `k` on. -/
def Memory.ofBytesFrom : Nat → List Byte → Memory
  | _, [] => []
  | k, b :: bs => if b = 0#8 then Memory.ofBytesFrom (k + 1) bs else (k, b) :: Memory.ofBytesFrom (k + 1) bs

/-- The buffer that holds the bytes `bs`, the first at address 0. -/
def Memory.ofBytes (bs : List Byte) : Memory := Memory.ofBytesFrom 0 bs

/-- The 16 bytes of a buffer, offset 0 first (00_scope.md R15: byte sequences are written low offset first). -/
def Memory.bytes (m : Memory) : List Byte :=
  [m.read 0, m.read 1, m.read 2, m.read 3, m.read 4, m.read 5, m.read 6, m.read 7,
   m.read 8, m.read 9, m.read 10, m.read 11, m.read 12, m.read 13, m.read 14, m.read 15]

/-! ### Events, errors, answers -/

/-- `emit E` (00_scope.md R17). -/
def State.emit (e : Event) (s : State) : State := { s with hist := s.hist ++ [e] }

/-- `raise Error(code)` (60_exceptions.md R223): the first error wins the latch, ERR is set, FAULTS and HIST record it.
The operation that raises it makes no other change. -/
def State.raiseError (code : ErrCode) (s : State) : State :=
  ({ s with
      errcode := latchFirst s.errcode code
      status := s.status.setErr
      faults := s.faults ++ [code] }).emit (.errorRaised code)

/-- The return from an error (60_exceptions.md R236): the latch and ERR are cleared, FAULTS is kept. -/
def State.clearError (s : State) : State := { s with errcode := 0, status := s.status.clearErr }

/-- The word `v` goes back to the host as the answer of a read (44_session.md R187; log 5). -/
def State.answer (v : Word) (s : State) : State := { s with readLog := s.readLog ++ [v] }

end Sys2Proof.Machine
end

