-- ==== Sys2Proof/Machine/Operands.lean ====
section
/-! DEFINITION. Where operands come from (30_encoding.md R85): the little-endian fields of a frame buffer (00_scope.md
R16, 30_encoding.md R71 to R77), the packed record headers (10_state.md R32, R39), the registers of the window and the
word each reads as (R22), and the signed readings of a record (R39, R47). -/

namespace Sys2Proof.Machine

/-! ### Fields of a frame -/

/-- `le16(buf, o)` (00_scope.md R16). -/
def le16 (m : Memory) (o : Nat) (h : o + 1 < 16 := by decide) : Half :=
  (m.read ⟨o, by omega⟩).setWidth 16 ||| (m.read ⟨o + 1, by omega⟩).setWidth 16 <<< 8

/-- `le32(buf, o)` (00_scope.md R16). -/
def le32 (m : Memory) (o : Nat) (h : o + 3 < 16 := by decide) : Word :=
  (m.read ⟨o, by omega⟩).setWidth 32 ||| (m.read ⟨o + 1, by omega⟩).setWidth 32 <<< 8 |||
    (m.read ⟨o + 2, by omega⟩).setWidth 32 <<< 16 ||| (m.read ⟨o + 3, by omega⟩).setWidth 32 <<< 24

/-- Word `k` of a buffer, `le32(buf, 4k)` (20_memory.md R53). -/
def bufferWord (m : Memory) (k : Fin 4) : Word := le32 m (4 * k.val) (by omega)

/-- The three words a CRC is computed over: `w_k = le32(buf, 4k)` for k = 0, 1, 2 (30_encoding.md R74). -/
def crcWordList (m : Memory) : List Word := [le32 m 0, le32 m 4, le32 m 8]

/-- The CRC field of a frame, `le32(buf, 12)` (30_encoding.md R75). -/
def crcField (m : Memory) : Word := le32 m 12

/-- Every field of a frame taken from its fixed offset (30_encoding.md R71, R76, R77; 41_frame_codec.md R123). -/
def frameRecord (m : Memory) : InRec :=
  { sof := m.read 0, fire := m.read 1, pitch := le32 m 2, yaw := le32 m 6, rsvd := le16 m 10, crc := crcField m }

/-! ### Record headers -/

/-- A header word: SOF in bits 7:0, FIRE in bits 15:8, RSVD in bits 31:16 (10_state.md R32, R39; 44_session.md R194). -/
def headerWord (sof fire : Byte) (rsvd : Half) : Word :=
  rsvd.setWidth 32 <<< 16 ||| fire.setWidth 32 <<< 8 ||| sof.setWidth 32

/-- INREC_HDR (10_state.md R39). -/
def InRec.hdr (r : InRec) : Word := headerWord r.sof r.fire r.rsvd

/-- OUTREC_HDR (10_state.md R32). -/
def OutRec.hdr (r : OutRec) : Word := headerWord r.sof r.fire r.rsvd

/-- A write of OUTREC_HDR sets all three fields (10_state.md R32). -/
def OutRec.withHdr (r : OutRec) (v : Word) : OutRec :=
  { r with sof := v.extractLsb' 0 8, fire := v.extractLsb' 8 8, rsvd := v.extractLsb' 16 16 }

/-- The fire-count as a signed number, `sext(FIRE)` (10_state.md R39, R47; 30_encoding.md R76). A reading; the block never
converts. -/
def InRec.fireValue (r : InRec) : Int := r.fire.toInt

/-- The reserved slot as a signed number, `sext(RSVD)` (10_state.md R39, R47; 30_encoding.md R76). -/
def InRec.rsvdValue (r : InRec) : Int := r.rsvd.toInt

/-- The outbound fire-times as a signed number (10_state.md R47). -/
def OutRec.fireValue (r : OutRec) : Int := r.fire.toInt

/-- The outbound reserved slot as a signed number (10_state.md R47; 90_conflicts.md C1). -/
def OutRec.rsvdValue (r : OutRec) : Int := r.rsvd.toInt

/-! ### The register window -/

/-- The register map (10_state.md R22): `none` for a misaligned or unmapped offset (20_memory.md R54, R56). -/
def regAt (o : BitVec 8) : Option Reg :=
  match o.toNat with
  | 0x00 => some .ctrl
  | 0x04 => some .status
  | 0x08 => some .errcode
  | 0x0C => some .cmd
  | 0x10 => some .threshold
  | 0x14 => some .linkCnt
  | 0x18 => some .linkThr
  | 0x1C => some .inrecHdr
  | 0x20 => some .inrecPitch
  | 0x24 => some .inrecYaw
  | 0x28 => some .inrecCrc
  | 0x2C => some .outrecHdr
  | 0x30 => some .outrecPitch
  | 0x34 => some .outrecYaw
  | 0x38 => some .outrecCrc
  | 0x3C => some (.txbuf 0)
  | 0x40 => some (.txbuf 1)
  | 0x44 => some (.txbuf 2)
  | 0x48 => some (.txbuf 3)
  | 0x4C => some (.rxbuf 0)
  | 0x50 => some (.rxbuf 1)
  | 0x54 => some (.rxbuf 2)
  | 0x58 => some (.rxbuf 3)
  | _ => none

/-- The offset of a register (10_state.md R22). -/
def regOffset : Reg → BitVec 8
  | .ctrl => 0x00
  | .status => 0x04
  | .errcode => 0x08
  | .cmd => 0x0C
  | .threshold => 0x10
  | .linkCnt => 0x14
  | .linkThr => 0x18
  | .inrecHdr => 0x1C
  | .inrecPitch => 0x20
  | .inrecYaw => 0x24
  | .inrecCrc => 0x28
  | .outrecHdr => 0x2C
  | .outrecPitch => 0x30
  | .outrecYaw => 0x34
  | .outrecCrc => 0x38
  | .txbuf k => 0x3C + 4 * BitVec.ofNat 8 k.val
  | .rxbuf k => 0x4C + 4 * BitVec.ofNat 8 k.val

/-- The word a register reads as (10_state.md R22 and the rule of each register; reserved bits read 0, R45; CMD reads 0,
R36). -/
def regValue (s : State) : Reg → Word
  | .ctrl => flagBit s.rxHold 0
  | .status => s.status.word
  | .errcode => s.errcode.setWidth 32
  | .cmd => 0
  | .threshold => s.threshold
  | .linkCnt => s.linkCnt
  | .linkThr => s.linkThr
  | .inrecHdr => s.inrec.hdr
  | .inrecPitch => s.inrec.pitch
  | .inrecYaw => s.inrec.yaw
  | .inrecCrc => s.inrec.crc
  | .outrecHdr => s.outrec.hdr
  | .outrecPitch => s.outrec.pitch
  | .outrecYaw => s.outrec.yaw
  | .outrecCrc => s.outrecCrc
  | .txbuf k => bufferWord s.txbuf k
  | .rxbuf k => bufferWord s.rxbuf k

end Sys2Proof.Machine
end

