-- ==== Sys2Proof/Machine/Validator.lean ====
section
/-! DEFINITION. The CRC32 validator (40_crc_validator.md): the one call of the CRC primitive (R100), its default instance
CRC_STM32 (R101), the validator function (R103) and VALIDATE (R105). -/

namespace Sys2Proof.Machine

/-! ### The default instance of the primitive -/

/-- One bit of CRC_STM32: shift left, and add the polynomial 0x04C11DB7 when bit 31 fell out (40_crc_validator.md R101). -/
def crcStm32Bit (c : Word) : Word := if c.getLsbD 31 then (c <<< 1) ^^^ 0x04C11DB7 else c <<< 1

/-- `n` bits of CRC_STM32 (40_crc_validator.md R101). -/
def crcStm32Bits : Nat → Word → Word
  | 0, c => c
  | n + 1, c => crcStm32Bits n (crcStm32Bit c)

/-- One word of CRC_STM32: `c ^ w`, then 32 bits (40_crc_validator.md R101). -/
def crcStm32Word (c w : Word) : Word := crcStm32Bits 32 (c ^^^ w)

/-- CRC_STM32 (40_crc_validator.md R101): the default instance of P_CRC_WORDS, which the machine does not rest on
(log 1, 16). -/
def crcStm32 (ws : List Word) : Word := ws.foldl crcStm32Word 0xFFFFFFFF

/-- The test configuration of 95_test_vectors.md: both markers 0x41, CRC_STM32, any transport, any base. -/
def testConfiguration : Config :=
  { rxSof := 0x41, txSof := 0x41, crcWords := crcStm32, transport := .dmaUart, base := 0 }

/-- CRC_SINGLE_BIT (40_crc_validator.md R102): flipping any one bit of bytes 0 to 11 changes the CRC. A premise, never
assumed of the machine's own primitive. -/
def CrcSingleBit (crc : List Word → Word) : Prop :=
  ∀ (m : Memory) (a : FrameAddr) (j : Fin 8), m.wf → a.val < 12 →
    crc (crcWordList (m.write a (m.read a ^^^ (1#8 <<< j.val)))) ≠ crc (crcWordList m)

/-! ### The call and the check -/

/-- The value `CRC32(buf)` returns (40_crc_validator.md R100). -/
def crcOf (cfg : Config) (m : Memory) : Word := cfg.crcWords (crcWordList m)

/-- The event `CRC32(buf)` emits (40_crc_validator.md R100). -/
def crcCallOf (cfg : Config) (m : Memory) : Event := .crcCall (crcWordList m) (crcOf cfg m)

/-- What `VALIDATE_FN(buf)` returns: true for Valid (40_crc_validator.md R103). -/
def frameValid (cfg : Config) (m : Memory) : Bool := crcOf cfg m == crcField m

/-! ### VALIDATE -/

/-- VALIDATE under the parameters `cfg` (40_crc_validator.md R105, R106). -/
def validateUnder (cfg : Config) (s : State) : State :=
  { s.emit (crcCallOf cfg s.rxbuf) with status := s.status.setValidResult (frameValid cfg s.rxbuf) }

/-- VALIDATE (40_crc_validator.md R105). -/
def execValidate (s : State) : Host.Outcome State Fault Refusal := .next (validateUnder Config.hw s)

end Sys2Proof.Machine
end

