-- ==== Sys2Proof/Machine/Codec.lean ====
section
/-! DEFINITION. The frame codec (41_frame_codec.md): PACK_FN (R120), PACK (R122) and UNPACK_FN (R123). -/

namespace Sys2Proof.Machine

/-! ### Packing -/

/-- Bytes 0 to 11 of the outbound frame, bytes 12 to 15 still 0x00 (41_frame_codec.md R120). -/
def packPrefix (r : OutRec) : Memory :=
  let b : Memory := []
  let b := b.write 0 r.sof
  let b := b.write 1 r.fire
  let b := b.write32 2 r.pitch
  let b := b.write32 6 r.yaw
  b.write16 10 r.rsvd

/-- The whole outbound frame: the prefix and its CRC in bytes 12 to 15 (41_frame_codec.md R120). -/
def packFrame (cfg : Config) (r : OutRec) : Memory := (packPrefix r).write32 12 (crcOf cfg (packPrefix r))

/-- PACK_FN (41_frame_codec.md R120): TXBUF and OUTREC_CRC, and the one CrcCall. -/
def packFn (cfg : Config) (s : State) : State :=
  { s.emit (crcCallOf cfg (packPrefix s.outrec)) with
    txbuf := packFrame cfg s.outrec
    outrecCrc := crcOf cfg (packPrefix s.outrec) }

/-- PACK under the parameters `cfg` (41_frame_codec.md R122). -/
def packUnder (cfg : Config) (s : State) : State :=
  if s.status.txBusy then s.raiseError .txOverrun else packFn cfg s

/-- PACK (41_frame_codec.md R122). -/
def execPack (s : State) : Host.Outcome State Fault Refusal := .next (packUnder Config.hw s)

/-! ### Unpacking -/

/-- The sentinel check: byte 0 is P_RX_SOF (41_frame_codec.md R123, R124). -/
def sentinelMatches (cfg : Config) (m : Memory) : Bool := m.read 0 == cfg.rxSof

/-- The record `UNPACK_FN(buf)` returns, or none (41_frame_codec.md R123). -/
def unpackFn (cfg : Config) (m : Memory) : Option InRec :=
  if sentinelMatches cfg m && frameValid cfg m then some (frameRecord m) else none

/-- The events `UNPACK_FN(buf)` emits: one CrcCall when the sentinel matches, none otherwise (41_frame_codec.md R124). -/
def unpackEvents (cfg : Config) (m : Memory) : List Event :=
  if sentinelMatches cfg m then [crcCallOf cfg m] else []

end Sys2Proof.Machine
end

