-- ==== Sys2Proof/Machine/Supervisor.lean ====
section
/-! DEFINITION. The link supervisor (43_link_supervisor.md): RELOAD (R162), EXPIRE (R165) and TICK (R163). -/

namespace Sys2Proof.Machine

/-- RELOAD (43_link_supervisor.md R162), performed only inside a decode success. -/
def reload (s : State) : State := { s with linkCnt := s.linkThr }

/-- EXPIRE (43_link_supervisor.md R165): ReinitReq, then Diag(LINK_OFFLINE), STALE, and the counter re-armed. No error
is raised (R167, 60_exceptions.md R222). -/
def expire (s : State) : State :=
  { (s.emit .reinitReq).emit (.diag .linkOffline) with status := s.status.setStale, linkCnt := s.linkThr }

/-- The decrement of a tick (43_link_supervisor.md R163), on 32 bits (00_scope.md R15); it never wraps in a reachable
state (R170; log 12). -/
def countDown (s : State) : State := { s with linkCnt := s.linkCnt - 1 }

/-- One tick (43_link_supervisor.md R163, R164): decrement, then expire at zero (90_conflicts.md C5). -/
def tickState (s : State) : State :=
  if s.status.initDone then
    if (countDown s).linkCnt = 0 then expire (countDown s) else countDown s
  else s

/-- TICK (43_link_supervisor.md R163). -/
def execTick (s : State) : Host.Outcome State Fault Refusal := .next (tickState s)

end Sys2Proof.Machine
end

