-- ==== Sys2Proof/Machine/Session.lean ====
section
/-! DEFINITION. The protocol session (44_session.md): INIT (R181), SEND (R183), CLRERR (R186) and DECODE (R193 to R195). -/

namespace Sys2Proof.Machine

/-! ### Host commands -/

/-- INIT (44_session.md R181, R182): ALREADY_INIT, then BAD_THRESHOLD (60_exceptions.md R233), then the latching of
THRESHOLD. -/
def initState (s : State) : State :=
  if s.status.initDone then s.raiseError .alreadyInit
  else if s.threshold = 0 then s.raiseError .badThreshold
  else { s with linkThr := s.threshold, linkCnt := s.threshold, status := s.status.afterInit }

/-- INIT (44_session.md R181). -/
def execInit (s : State) : Host.Outcome State Fault Refusal := .next (initState s)

/-- SEND's effect once its checks have passed (44_session.md R183): PACK_FN, TxSend, TX_BUSY. -/
def transmit (cfg : Config) (s : State) : State :=
  let p := packFn cfg s
  { p.emit (.txSend p.txbuf.bytes) with status := p.status.setTxBusy true }

/-- SEND under the parameters `cfg` (44_session.md R183): NOT_INIT, then TX_OVERRUN (60_exceptions.md R233). -/
def sendUnder (cfg : Config) (s : State) : State :=
  if s.status.initDone then
    if s.status.txBusy then s.raiseError .txOverrun else transmit cfg s
  else s.raiseError .notInit

/-- SEND (44_session.md R183). -/
def execSend (s : State) : Host.Outcome State Fault Refusal := .next (sendUnder Config.hw s)

/-- CLRERR (44_session.md R186). -/
def execClrerr (s : State) : Host.Outcome State Fault Refusal := .next s.clearError

/-! ### The decode callback -/

/-- The enabling condition of DECODE (44_session.md R193, 20_memory.md R61). -/
def decodeEnabled (s : State) : Bool := s.status.initDone && s.status.rxPending && !s.rxHold

/-- A decode success puts the record in INREC, sets INREC_VALID, clears STALE and reloads the supervisor
(44_session.md R194, R195). -/
def acceptRecord (r : InRec) (s : State) : State :=
  reload { s with inrec := r, status := s.status.afterDecodeSuccess }

/-- The pending frame leaves the slot and its check is recorded (44_session.md R194, 41_frame_codec.md R124): what DECODE
does whether the frame is accepted or dropped. -/
def takePending (cfg : Config) (s : State) : State :=
  { s with status := s.status.setRxPending false, hist := s.hist ++ unpackEvents cfg s.rxbuf }

/-- DECODE of the pending frame (44_session.md R194): a framing or an integrity error is dropped silently
(60_exceptions.md R221). -/
def decodePending (cfg : Config) (s : State) : State :=
  match unpackFn cfg s.rxbuf with
  | some r => acceptRecord r (takePending cfg s)
  | none => takePending cfg s

/-- DECODE under the parameters `cfg`. While it is not enabled (44_session.md R193) the receive service has no step, so
nothing changes (log 4). -/
def decodeUnder (cfg : Config) (s : State) : State := if decodeEnabled s then decodePending cfg s else s

/-- DECODE (44_session.md R194). -/
def execDecode (s : State) : Host.Outcome State Fault Refusal := .next (decodeUnder Config.hw s)

end Sys2Proof.Machine
end

