-- ==== Sys2Proof/Machine/Bus.lean ====
section
/-! DEFINITION. The host bus (44_session.md R187 to R192): REG_RD, REG_WR, the command a CMD write runs, and the answer to a
transaction that is no register access (20_memory.md R54). -/

namespace Sys2Proof.Machine

/-- REG_RD(o) (44_session.md R187): a misaligned or unmapped offset raises BAD_ACCESS and returns 0; else the register's
value is returned and nothing else changes (20_memory.md R57). -/
def execRegRd (o : BitVec 8) (s : State) : Host.Outcome State Fault Refusal :=
  match regAt o with
  | none => .next ((s.raiseError .badAccess).answer 0)
  | some r => .next (s.answer (regValue s r))

/-- A write of `c` to CMD (44_session.md R192): the command it encodes, ILLEGAL_CMD or EVENT_ONLY_CMD. -/
def runCommand (c : Word) (s : State) : Host.Outcome State Fault Refusal :=
  match decodeCommand c with
  | .init => execInit s
  | .pack => execPack s
  | .send => execSend s
  | .validate => execValidate s
  | .clrerr => execClrerr s
  | .eventOnly => .next (s.raiseError .eventOnlyCmd)
  | .illegal => .next (s.raiseError .illegalCmd)

/-- A write of `v` to the register `r` (44_session.md R188): CTRL takes bit 0 (R189), THRESHOLD and OUTREC store the word
(R190), CMD runs the command (R192), a read-only register raises BAD_ACCESS (20_memory.md R56). -/
def writeReg (r : Reg) (v : Word) (s : State) : Host.Outcome State Fault Refusal :=
  match r with
  | .ctrl => .next { s with rxHold := v.getLsbD 0 }
  | .cmd => runCommand v s
  | .threshold => .next { s with threshold := v }
  | .outrecHdr => .next { s with outrec := s.outrec.withHdr v }
  | .outrecPitch => .next { s with outrec := { s.outrec with pitch := v } }
  | .outrecYaw => .next { s with outrec := { s.outrec with yaw := v } }
  | .status => .next (s.raiseError .badAccess)
  | .errcode => .next (s.raiseError .badAccess)
  | .linkCnt => .next (s.raiseError .badAccess)
  | .linkThr => .next (s.raiseError .badAccess)
  | .inrecHdr => .next (s.raiseError .badAccess)
  | .inrecPitch => .next (s.raiseError .badAccess)
  | .inrecYaw => .next (s.raiseError .badAccess)
  | .inrecCrc => .next (s.raiseError .badAccess)
  | .outrecCrc => .next (s.raiseError .badAccess)
  | .txbuf _ => .next (s.raiseError .badAccess)
  | .rxbuf _ => .next (s.raiseError .badAccess)

/-- REG_WR(o, v) (44_session.md R188): a misaligned or unmapped offset raises BAD_ACCESS. -/
def execRegWr (o : BitVec 8) (v : Word) (s : State) : Host.Outcome State Fault Refusal :=
  match regAt o with
  | none => .next (s.raiseError .badAccess)
  | some r => writeReg r v s

/-- A bus transaction that is no register access (20_memory.md R54): BAD_ACCESS, and a read so refused returns 0. -/
def refuseAccess (d : BitVec 11) (s : State) : State :=
  if d.extractLsb' 8 1 = 1 then s.raiseError .badAccess else (s.raiseError .badAccess).answer 0

end Sys2Proof.Machine
end

