-- ==== Sys2Proof/Machine/Fetch.lean ====
section
/-! DEFINITION. Which transaction comes next (20_memory.md R61), what the block does with one that is no operation of the
opcode table, and what it does when none is left (70_reset_and_hazards.md R251, R269). -/

namespace Sys2Proof.Machine

/-- The next transaction of the schedule, and the state it runs in (log 2). -/
def fetch (s : State) : Option (Transaction × State) :=
  match s.schedule with
  | [] => none
  | t :: rest => some (t, { s with schedule := rest })

/-- No transaction is left: the receive service takes its step if it is enabled (44_session.md R193, weak fairness of
70_reset_and_hazards.md R269), and otherwise nothing runs on its own (R251; log 3). -/
def idle (s : State) : Host.Outcome State Fault Refusal := .next (decodeUnder Config.hw s)

/-- A transaction the decoder rejects: a bus transaction that is no register access raises BAD_ACCESS (20_memory.md
R54), an event code that no port has is no operation of the block (log 8). -/
def rejected (r : Reject) (t : Transaction) (s : State) : Host.Outcome State Fault Refusal :=
  match r, t with
  | .badAccess, .bus d _ => .next (refuseAccess d s)
  | .badAccess, .event _ _ => .refused .noSuchEvent
  | .unknownEvent, _ => .refused .noSuchEvent

/-- The transaction `t` put where the next step takes its transaction from. -/
def loadNext (t : Transaction) (s : State) : State := { s with schedule := t :: s.schedule }

end Sys2Proof.Machine
end

