-- ==== Sys2Proof/Machine/Reset.lean ====
section
/-! DEFINITION. The reset input (70_reset_and_hazards.md R250). -/

namespace Sys2Proof.Machine

/-- Every register and buffer at its reset value, HIST and FAULTS kept (70_reset_and_hazards.md R250, 10_state.md R46); what
the agents have still to do and what the host has read are outside the block and are kept (log 2, 5). -/
def resetUnder (cfg : Config) (s : State) : State :=
  { State.resetWith cfg with hist := s.hist, faults := s.faults, schedule := s.schedule, readLog := s.readLog }

/-- RESET (70_reset_and_hazards.md R250). -/
def execReset (s : State) : Host.Outcome State Fault Refusal := .next (resetUnder Config.hw s)

end Sys2Proof.Machine
end

