-- ==== Sys2Proof/Machine/Transport.lean ====
section
/-! DEFINITION. The transport's ports (42_transport_ports.md): RX_ARRIVE (R141 to R144) and TX_DONE (R146, R147). The
block's own requests to the transport, TxSend and ReinitReq, are events. -/

namespace Sys2Proof.Machine

/-- The state after 16 bytes arrived (42_transport_ports.md R141): before INIT nothing changes (R142); a frame already
pending is overwritten (R144). -/
def frameArrived (bytes : List Byte) (s : State) : State :=
  if s.status.initDone then
    { s with rxbuf := Memory.ofBytes bytes, status := s.status.setRxPending true }
  else s

/-- RX_ARRIVE(len, bytes) (42_transport_ports.md R141): any length but 16 is refused by the spec itself (R143,
60_exceptions.md R232). -/
def execRxArrive (bytes : List Byte) (s : State) : Host.Outcome State Fault Refusal :=
  if bytes.length = 16 then .next (frameArrived bytes s) else .refused .rxLength

/-- TX_DONE (42_transport_ports.md R146, R147). -/
def execTxDone (s : State) : Host.Outcome State Fault Refusal :=
  .next (if s.status.txBusy then { s with status := s.status.setTxBusy false } else s)

end Sys2Proof.Machine
end

