-- ==== Sys2Proof/Machine/Dispatch.lean ====
section
/-! DEFINITION. One arm per operation of the opcode table. -/

namespace Sys2Proof.Machine

def exec (i : Instr) (s : State) : Host.Outcome State Fault Refusal :=
  match i with
  | .init => Sys2Proof.Machine.execInit s
  | .pack => Sys2Proof.Machine.execPack s
  | .send => Sys2Proof.Machine.execSend s
  | .validate => Sys2Proof.Machine.execValidate s
  | .clrerr => Sys2Proof.Machine.execClrerr s
  | .decode => Sys2Proof.Machine.execDecode s
  | .tick => Sys2Proof.Machine.execTick s
  | .rxArrive bytes => Sys2Proof.Machine.execRxArrive bytes s
  | .txDone => Sys2Proof.Machine.execTxDone s
  | .reset => Sys2Proof.Machine.execReset s
  | .regRd offset => Sys2Proof.Machine.execRegRd offset s
  | .regWr offset data => Sys2Proof.Machine.execRegWr offset data s

end Sys2Proof.Machine
end

