-- ==== Sys2Proof/Machine/Step.lean ====
section
/-! DEFINITION. One step of the machine: the next transaction of the schedule, decoded and run (20_memory.md R60, R61). -/

namespace Sys2Proof.Machine

/-- One atomic step (20_memory.md R60). -/
def step (s : State) : Host.Outcome State Fault Refusal :=
  match fetch s with
  | none => idle s
  | some (t, s') =>
    match decode t with
    | .ok i => exec i s'
    | .error r => rejected r t s'

/-- `s` with the transaction of a word of the opcode table as its next one (log 2, 7, 15). -/
def State.withFetchWord (s : State) (nbits w : Nat) : State := loadNext (tableTransaction nbits w) s

end Sys2Proof.Machine
end

