-- ==== Sys2Proof/Safety.lean ====
section
/-! DEFINITION. The terms claims are stated in: what a run and a decode success are, what a host may rely on, and the
invariants of the block. -/

namespace Sys2Proof.Machine

/-! ### Runs and what they show -/

/-- The instructions `is` in order, from `s`. -/
def runInstrs : List Instr → State → Host.Outcome State Fault Refusal
  | [], s => .next s
  | i :: is, s =>
    match exec i s with
    | .next t => runInstrs is t
    | .fault f => .fault f
    | .refused r => .refused r

/-- A DECODE taken in `s` is a decode success (44_session.md R195). -/
def decodeSucceeds (cfg : Config) (s : State) : Bool :=
  decodeEnabled s && sentinelMatches cfg s.rxbuf && frameValid cfg s.rxbuf

/-- The run of `is` from `s` holds no decode success and no reset: what R168 calls "no decode success in between". -/
def NoReload : List Instr → State → Prop
  | [], _ => True
  | i :: is, s =>
    i ≠ .reset ∧ (i = .decode → decodeSucceeds Config.hw s = false) ∧ ∀ t, exec i s = .next t → NoReload is t

/-- The bytes a TxSend hands to the transport. -/
def Event.sent : Event → Option (List Byte)
  | .txSend bytes => some bytes
  | .crcCall _ _ => none
  | .reinitReq => none
  | .diag _ => none
  | .errorRaised _ => none

/-- The code an ErrorRaised carries. -/
def Event.error : Event → Option ErrCode
  | .errorRaised c => some c
  | .crcCall _ _ => none
  | .txSend _ => none
  | .reinitReq => none
  | .diag _ => none

/-- The frame the last TxSend handed over (42_transport_ports.md R145). -/
def State.lastSent (s : State) : Option (List Byte) := (s.hist.filterMap Event.sent).getLast?

/-- The outbound record whose frame carries the fields of an inbound one. -/
def InRec.asOut (r : InRec) : OutRec :=
  { sof := r.sof, fire := r.fire, pitch := r.pitch, yaw := r.yaw, rsvd := r.rsvd }

/-! ### What a host may rely on -/

/-- No error so far (10_state.md R43: the premise of a claim about an error-free run). -/
def State.ErrorFree (s : State) : Prop := s.faults = []

/-- INREC is fresh: INREC_VALID = 1 and STALE = 0 (10_state.md R27, 44_session.md R198). -/
def State.inrecFresh (s : State) : Bool := s.status.inrecValid && !s.status.stale

/-! ### Invariants -/

/-- Both buffers are in canonical form. -/
def State.BuffersCanonical (s : State) : Prop := s.txbuf.wf ∧ s.rxbuf.wf

/-- The counter's bounds (43_link_supervisor.md R170): in 1..LINK_THR once INIT has run, 0 before. -/
def State.SupervisorBounded (s : State) : Prop :=
  (s.status.initDone = true → 1 ≤ s.linkCnt ∧ s.linkCnt ≤ s.linkThr) ∧
  (s.status.initDone = false → s.linkCnt = 0 ∧ s.linkThr = 0)

/-- The error latch: STATUS.ERR is 1 exactly when ERRCODE is not 0 (10_state.md R31), a latched code is a raised one
(R35, 60_exceptions.md R224), and FAULTS lists the ErrorRaised events of HIST (60_exceptions.md R223). -/
def State.LatchConsistent (s : State) : Prop :=
  (s.status.err = true ↔ s.errcode ≠ 0) ∧
  (s.errcode ≠ 0 → ∃ c ∈ s.faults, c.bits = s.errcode) ∧
  s.faults = s.hist.filterMap Event.error

/-- Before INIT nothing is pending, in flight, decoded or stale, and RXBUF is as reset left it (42_transport_ports.md
R142, 70_reset_and_hazards.md R251, R253). -/
def State.QuietBeforeInit (s : State) : Prop :=
  s.status.initDone = false →
    s.status.inrecValid = false ∧ s.status.stale = false ∧ s.status.txBusy = false ∧ s.status.rxPending = false ∧
    s.rxbuf = []

/-- While a transmit is in flight TXBUF holds the bytes the last TxSend handed over (42_transport_ports.md R145,
44_session.md R185). -/
def State.TransmitHeld (s : State) : Prop := s.status.txBusy = true → s.lastSent = some s.txbuf.bytes

/-- The outbound frame carries its own CRC (30_encoding.md R73): OUTREC_CRC is TXBUF's CRC field, and it is the CRC of
TXBUF's prefix unless nothing has been packed since reset. -/
def State.OutboundSound (s : State) : Prop :=
  crcField s.txbuf = s.outrecCrc ∧ (s.outrecCrc = crcOf Config.hw s.txbuf ∨ (s.txbuf = [] ∧ s.outrecCrc = 0))

/-- What a host reads in INREC came from a good frame (41_frame_codec.md R125, 44_session.md R195, 10_state.md R26): the
sentinel is P_RX_SOF and the CRC is that of the frame its fields make; before the first decode success it is the reset
record. -/
def State.InboundSound (s : State) : Prop :=
  (s.status.inrecValid = true →
    s.inrec.sof = Config.hw.rxSof ∧ s.inrec.crc = crcOf Config.hw (packPrefix s.inrec.asOut)) ∧
  (s.status.inrecValid = false → s.inrec = InRec.reset)

end Sys2Proof.Machine
end

