-- ==== Sys2Proof/Certificates/Slice0/Obligations.lean ====
section
/-! DEFINITION. The statements for the provers, from the numbered rules of spec/: what each operation does and leaves
alone, the errors, the encodings, and the invariants of the block. -/

open Sys2Proof Sys2Proof.Machine

/-! ### Reset -/

/-- 70_reset_and_hazards.md R250, 10_state.md R46: the reset input completes in every state, puts every register and
buffer at its reset value and keeps HIST and FAULTS. -/
def Obligations.ResetInputRestoresResetValues : Prop :=
  decode (.event 0x84 []) = .ok .reset ∧
  ∀ s : State, ∃ t, exec .reset s = .next t ∧
    t.rxHold = false ∧
    t.status = { initDone := false, inrecValid := false, stale := false, txBusy := false, rxPending := false,
                 validResult := false, err := false } ∧
    t.errcode = 0 ∧ t.threshold = 10 ∧ t.linkCnt = 0 ∧ t.linkThr = 0 ∧
    t.inrec = { sof := 0, fire := 0, pitch := 0, yaw := 0, rsvd := 0, crc := 0 } ∧
    t.outrec = { sof := Config.hw.txSof, fire := 0, pitch := 0, yaw := 0, rsvd := 0 } ∧ t.outrecCrc = 0 ∧
    (∀ a, t.txbuf.read a = 0) ∧ (∀ a, t.rxbuf.read a = 0) ∧
    t.hist = s.hist ∧ t.faults = s.faults

/-- 10_state.md R46: the state the machine starts from. (That HIST, FAULTS, the schedule and the read answers start
empty is the model's choice, log 2, 5 and 10.) -/
def Obligations.StartStateHoldsResetValues : Prop :=
  State.reset.rxHold = false ∧ State.reset.status.word = 0 ∧ State.reset.errcode = 0 ∧ State.reset.threshold = 10 ∧
  State.reset.linkCnt = 0 ∧ State.reset.linkThr = 0 ∧
  State.reset.inrec = { sof := 0, fire := 0, pitch := 0, yaw := 0, rsvd := 0, crc := 0 } ∧
  State.reset.outrec = { sof := Config.hw.txSof, fire := 0, pitch := 0, yaw := 0, rsvd := 0 } ∧
  State.reset.outrecCrc = 0 ∧ (∀ a, State.reset.txbuf.read a = 0) ∧ (∀ a, State.reset.rxbuf.read a = 0) ∧
  State.reset.hist = [] ∧ State.reset.faults = [] ∧ State.reset.schedule = [] ∧ State.reset.readLog = []

/-! ### Host commands -/

/-- 44_session.md R181, 60_exceptions.md R228, R229: INIT latches THRESHOLD and arms the supervisor; a second INIT
raises ALREADY_INIT, whatever THRESHOLD is, and a zero threshold BAD_THRESHOLD, with no other effect. -/
def Obligations.InitArmsTheSupervisor : Prop :=
  decode (.bus 0x50C 0x00000001) = .ok .init ∧
  ∀ s : State,
    (s.status.initDone = false → s.threshold ≠ 0 →
      exec .init s = .next { s with
        linkThr := s.threshold
        linkCnt := s.threshold
        status := { s.status with initDone := true, stale := false } }) ∧
    (s.status.initDone = true → exec .init s = .next (s.raiseError .alreadyInit)) ∧
    (s.status.initDone = false → s.threshold = 0 → exec .init s = .next (s.raiseError .badThreshold))

/-- 41_frame_codec.md R120 (30_encoding.md R71, R74, R75): PACK completes when no transmit is in flight; every byte of
TXBUF is the byte the wire format gives it, the CRC is taken over the three little-endian words of bytes 0 to 11 and
stored in bytes 12 to 15 and in OUTREC_CRC, one CrcCall is emitted, and nothing else changes. -/
def Obligations.PackWritesTheWireFormat : Prop :=
  ∀ s : State, s.status.txBusy = false →
    ∃ (t : State) (w0 w1 w2 c : Word), exec .pack s = .next t ∧
      w0 = s.outrec.pitch.extractLsb' 0 16 ++ s.outrec.fire ++ s.outrec.sof ∧
      w1 = s.outrec.yaw.extractLsb' 0 16 ++ s.outrec.pitch.extractLsb' 16 16 ∧
      w2 = s.outrec.rsvd ++ s.outrec.yaw.extractLsb' 16 16 ∧
      c = Config.hw.crcWords [w0, w1, w2] ∧
      t.txbuf.bytes =
        [s.outrec.sof, s.outrec.fire,
         s.outrec.pitch.extractLsb' 0 8, s.outrec.pitch.extractLsb' 8 8,
         s.outrec.pitch.extractLsb' 16 8, s.outrec.pitch.extractLsb' 24 8,
         s.outrec.yaw.extractLsb' 0 8, s.outrec.yaw.extractLsb' 8 8,
         s.outrec.yaw.extractLsb' 16 8, s.outrec.yaw.extractLsb' 24 8,
         s.outrec.rsvd.extractLsb' 0 8, s.outrec.rsvd.extractLsb' 8 8,
         c.extractLsb' 0 8, c.extractLsb' 8 8, c.extractLsb' 16 8, c.extractLsb' 24 8] ∧
      t = { s with txbuf := t.txbuf, outrecCrc := c, hist := s.hist ++ [.crcCall [w0, w1, w2] c] }

/-- 41_frame_codec.md R122: the encoding of PACK; with no transmit in flight it does what PACK_FN does (before INIT too)
and leaves STATUS and FAULTS as they are; while one is in flight it raises TX_OVERRUN, when TXBUF and OUTREC_CRC stay as
they are and no CrcCall is emitted. -/
def Obligations.PackIsTurnedAwayWhileBusy : Prop :=
  decode (.bus 0x50C 0x00000002) = .ok .pack ∧
  ∀ s : State,
    (s.status.txBusy = false →
      ∃ t, exec .pack s = .next t ∧ t = packFn Config.hw s ∧ t.status = s.status ∧ t.faults = s.faults) ∧
    (s.status.txBusy = true → exec .pack s = .next (s.raiseError .txOverrun))

/-- 44_session.md R183: SEND completes when INIT has run and no transmit is in flight: it does what PACK does, hands the
16 bytes of TXBUF to the transport and sets TX_BUSY; before INIT it raises NOT_INIT, while busy TX_OVERRUN. -/
def Obligations.SendPacksAndTransmits : Prop :=
  decode (.bus 0x50C 0x00000003) = .ok .send ∧
  ∀ s : State,
    (s.status.initDone = true → s.status.txBusy = false →
      ∃ u, exec .pack s = .next u ∧
        exec .send s = .next { u with
          hist := u.hist ++ [.txSend u.txbuf.bytes]
          status := { u.status with txBusy := true } }) ∧
    (s.status.initDone = false → exec .send s = .next (s.raiseError .notInit)) ∧
    (s.status.initDone = true → s.status.txBusy = true → exec .send s = .next (s.raiseError .txOverrun))

/-- 44_session.md R184: two SENDs with identical OUTREC contents, neither turned away, give byte-identical TxSend
events and identical TXBUF and OUTREC_CRC, whatever else the two states hold. -/
def Obligations.IdenticalRecordsSendIdenticalFrames : Prop :=
  ∀ s s' t t' : State, s.outrec = s'.outrec →
    s.status.initDone = true → s.status.txBusy = false → s'.status.initDone = true → s'.status.txBusy = false →
    exec .send s = .next t → exec .send s' = .next t' →
    t.txbuf = t'.txbuf ∧ t.outrecCrc = t'.outrecCrc ∧
    ∃ bytes, t.hist.getLast? = some (.txSend bytes) ∧ t'.hist.getLast? = some (.txSend bytes)

/-- 40_crc_validator.md R103, R105, R106: VALIDATE reports whether the CRC of RXBUF's first three little-endian words is
the stored one, emits the CrcCall, and changes nothing else; byte 0 is not looked at. -/
def Obligations.ValidateReportsTheCrcCheck : Prop :=
  decode (.bus 0x50C 0x00000004) = .ok .validate ∧
  ∀ (s : State) (w0 w1 w2 : Word),
    w0 = s.rxbuf.read 3 ++ s.rxbuf.read 2 ++ s.rxbuf.read 1 ++ s.rxbuf.read 0 →
    w1 = s.rxbuf.read 7 ++ s.rxbuf.read 6 ++ s.rxbuf.read 5 ++ s.rxbuf.read 4 →
    w2 = s.rxbuf.read 11 ++ s.rxbuf.read 10 ++ s.rxbuf.read 9 ++ s.rxbuf.read 8 →
    exec .validate s = .next { s with
      status := { s.status with
        validResult := decide (Config.hw.crcWords [w0, w1, w2] =
          s.rxbuf.read 15 ++ s.rxbuf.read 14 ++ s.rxbuf.read 13 ++ s.rxbuf.read 12) }
      hist := s.hist ++ [.crcCall [w0, w1, w2] (Config.hw.crcWords [w0, w1, w2])] }

/-- 44_session.md R186: CLRERR clears ERRCODE and STATUS.ERR and nothing else; FAULTS and HIST are kept. -/
def Obligations.ClrerrClearsTheLatchOnly : Prop :=
  decode (.bus 0x50C 0x00000005) = .ok .clrerr ∧
  ∀ s : State, exec .clrerr s = .next { s with errcode := 0, status := { s.status with err := false } }

/-! ### Events -/

/-- 44_session.md R194 (41_frame_codec.md R123, R124; 60_exceptions.md R221): an enabled DECODE of a frame whose byte 0 is
P_RX_SOF and whose CRC matches puts every field of the frame in INREC, sets INREC_VALID, clears STALE and RX_PENDING,
reloads the supervisor and emits one CrcCall. A frame whose byte 0 is not P_RX_SOF is dropped before any CRC is computed;
one whose CRC does not match is dropped with its CrcCall as the only trace. Nothing else changes in any case. -/
def Obligations.DecodeTakesThePendingFrame : Prop :=
  decode (.event 0x80 []) = .ok .decode ∧
  ∀ (s : State) (w0 w1 w2 c : Word),
    s.status.initDone = true → s.status.rxPending = true → s.rxHold = false →
    w0 = s.rxbuf.read 3 ++ s.rxbuf.read 2 ++ s.rxbuf.read 1 ++ s.rxbuf.read 0 →
    w1 = s.rxbuf.read 7 ++ s.rxbuf.read 6 ++ s.rxbuf.read 5 ++ s.rxbuf.read 4 →
    w2 = s.rxbuf.read 11 ++ s.rxbuf.read 10 ++ s.rxbuf.read 9 ++ s.rxbuf.read 8 →
    c = s.rxbuf.read 15 ++ s.rxbuf.read 14 ++ s.rxbuf.read 13 ++ s.rxbuf.read 12 →
    (s.rxbuf.read 0 = Config.hw.rxSof → Config.hw.crcWords [w0, w1, w2] = c →
      exec .decode s = .next { s with
        inrec :=
          { sof := s.rxbuf.read 0
            fire := s.rxbuf.read 1
            pitch := s.rxbuf.read 5 ++ s.rxbuf.read 4 ++ s.rxbuf.read 3 ++ s.rxbuf.read 2
            yaw := s.rxbuf.read 9 ++ s.rxbuf.read 8 ++ s.rxbuf.read 7 ++ s.rxbuf.read 6
            rsvd := s.rxbuf.read 11 ++ s.rxbuf.read 10
            crc := c }
        status := { s.status with rxPending := false, inrecValid := true, stale := false }
        linkCnt := s.linkThr
        hist := s.hist ++ [.crcCall [w0, w1, w2] c] }) ∧
    (s.rxbuf.read 0 ≠ Config.hw.rxSof →
      exec .decode s = .next { s with status := { s.status with rxPending := false } }) ∧
    (s.rxbuf.read 0 = Config.hw.rxSof → Config.hw.crcWords [w0, w1, w2] ≠ c →
      exec .decode s = .next { s with
        status := { s.status with rxPending := false }
        hist := s.hist ++ [.crcCall [w0, w1, w2] (Config.hw.crcWords [w0, w1, w2])] })

/-- The model's choice (log 4; 44_session.md R193 says when DECODE is enabled): a DECODE offered while it is not enabled
changes nothing. -/
def Obligations.DecodeNotEnabledChangesNothing : Prop :=
  ∀ s : State, s.status.initDone = false ∨ s.status.rxPending = false ∨ s.rxHold = true → exec .decode s = .next s

/-- 43_link_supervisor.md R163, R164, R165: before INIT a tick changes nothing; after it a tick counts LINK_CNT down,
and the tick that reaches zero emits ReinitReq and Diag, sets STALE and re-arms, raising no error. (R163 ticks only a
LINK_CNT of at least 1; that LINK_CNT = 0 after INIT, which no run reaches, wraps is the model's inference, log 12.) -/
def Obligations.TickCountsDownAndExpires : Prop :=
  decode (.event 0x81 []) = .ok .tick ∧
  ∀ s : State,
    (s.status.initDone = false → exec .tick s = .next s) ∧
    (s.status.initDone = true → s.linkCnt ≠ 1 → exec .tick s = .next { s with linkCnt := s.linkCnt - 1 }) ∧
    (s.status.initDone = true → s.linkCnt = 1 →
      exec .tick s = .next { s with
        hist := s.hist ++ [.reinitReq, .diag .linkOffline]
        status := { s.status with stale := true }
        linkCnt := s.linkThr })

/-- 42_transport_ports.md R141, R142, R143: 16 bytes delivered after INIT are in RXBUF, byte by byte, and pending;
before INIT nothing changes; another length is refused. (That the length is the number of bytes delivered is the
model's choice, log 7.) -/
def Obligations.RxArriveStoresTheFrame : Prop :=
  (∀ bytes, decode (.event 0x82 bytes) = .ok (.rxArrive bytes)) ∧
  ∀ (s : State) (bytes : List Byte),
    (bytes.length = 16 → s.status.initDone = true →
      ∃ t, exec (.rxArrive bytes) s = .next t ∧ t.rxbuf.bytes = bytes ∧
        t = { s with rxbuf := t.rxbuf, status := { s.status with rxPending := true } }) ∧
    (bytes.length = 16 → s.status.initDone = false → exec (.rxArrive bytes) s = .next s) ∧
    (bytes.length ≠ 16 → exec (.rxArrive bytes) s = .refused .rxLength)

/-- 42_transport_ports.md R144: a frame that arrives while one is pending replaces it and leaves no trace of it: the
state is the one a lone arrival of the second frame gives. -/
def Obligations.SecondArrivalReplacesThePendingFrame : Prop :=
  ∀ (s t : State) (first second : List Byte), exec (.rxArrive first) s = .next t →
    exec (.rxArrive second) t = exec (.rxArrive second) s

/-- 42_transport_ports.md R146, R147: TX_DONE clears TX_BUSY and nothing else, and with nothing in flight it changes
nothing. -/
def Obligations.TxDoneClearsBusy : Prop :=
  decode (.event 0x83 []) = .ok .txDone ∧
  ∀ s : State,
    exec .txDone s = .next { s with status := { s.status with txBusy := false } } ∧
    (s.status.txBusy = false → exec .txDone s = .next s)

/-! ### The register window -/

/-- 44_session.md R187, 10_state.md R22 and the rule of each register: what a read of each of the 23 mapped offsets
returns, and that it changes nothing but the host's answers (20_memory.md R57; the answers are the model's field,
log 5). -/
def Obligations.RegisterReadsReturnTheRegisters : Prop :=
  ∀ (s : State) (o : BitVec 8) (v : Word),
    (o = 0x00 ∧ v = (if s.rxHold then 1 else 0)) ∨
    (o = 0x04 ∧ v = s.status.word) ∨
    (o = 0x08 ∧ v = 0#28 ++ s.errcode) ∨
    (o = 0x0C ∧ v = 0) ∨
    (o = 0x10 ∧ v = s.threshold) ∨
    (o = 0x14 ∧ v = s.linkCnt) ∨
    (o = 0x18 ∧ v = s.linkThr) ∨
    (o = 0x1C ∧ v = s.inrec.rsvd ++ s.inrec.fire ++ s.inrec.sof) ∨
    (o = 0x20 ∧ v = s.inrec.pitch) ∨
    (o = 0x24 ∧ v = s.inrec.yaw) ∨
    (o = 0x28 ∧ v = s.inrec.crc) ∨
    (o = 0x2C ∧ v = s.outrec.rsvd ++ s.outrec.fire ++ s.outrec.sof) ∨
    (o = 0x30 ∧ v = s.outrec.pitch) ∨
    (o = 0x34 ∧ v = s.outrec.yaw) ∨
    (o = 0x38 ∧ v = s.outrecCrc) ∨
    (o = 0x3C ∧ v = s.txbuf.read 3 ++ s.txbuf.read 2 ++ s.txbuf.read 1 ++ s.txbuf.read 0) ∨
    (o = 0x40 ∧ v = s.txbuf.read 7 ++ s.txbuf.read 6 ++ s.txbuf.read 5 ++ s.txbuf.read 4) ∨
    (o = 0x44 ∧ v = s.txbuf.read 11 ++ s.txbuf.read 10 ++ s.txbuf.read 9 ++ s.txbuf.read 8) ∨
    (o = 0x48 ∧ v = s.txbuf.read 15 ++ s.txbuf.read 14 ++ s.txbuf.read 13 ++ s.txbuf.read 12) ∨
    (o = 0x4C ∧ v = s.rxbuf.read 3 ++ s.rxbuf.read 2 ++ s.rxbuf.read 1 ++ s.rxbuf.read 0) ∨
    (o = 0x50 ∧ v = s.rxbuf.read 7 ++ s.rxbuf.read 6 ++ s.rxbuf.read 5 ++ s.rxbuf.read 4) ∨
    (o = 0x54 ∧ v = s.rxbuf.read 11 ++ s.rxbuf.read 10 ++ s.rxbuf.read 9 ++ s.rxbuf.read 8) ∨
    (o = 0x58 ∧ v = s.rxbuf.read 15 ++ s.rxbuf.read 14 ++ s.rxbuf.read 13 ++ s.rxbuf.read 12) →
    exec (.regRd o) s = .next { s with readLog := s.readLog ++ [v] }

/-- 20_memory.md R54, R56 for reads: a misaligned or unmapped offset raises BAD_ACCESS and the read returns 0. -/
def Obligations.BadReadsRaiseBadAccess : Prop :=
  ∀ (s : State) (o : BitVec 8), o.toNat % 4 ≠ 0 ∨ 0x5C ≤ o.toNat →
    exec (.regRd o) s =
      .next { s.raiseError .badAccess with readLog := s.readLog ++ [0] }

/-- 44_session.md R189, R190: a CTRL write sets RX_HOLD to bit 0 of the word; writes of THRESHOLD and OUTREC store their
word and do nothing else, at any time. -/
def Obligations.WritableRegistersStoreTheWord : Prop :=
  ∀ (s : State) (v : Word),
    exec (.regWr 0x00 v) s = .next { s with rxHold := v.getLsbD 0 } ∧
    exec (.regWr 0x10 v) s = .next { s with threshold := v } ∧
    exec (.regWr 0x2C v) s = .next { s with outrec :=
      { sof := v.extractLsb' 0 8, fire := v.extractLsb' 8 8, rsvd := v.extractLsb' 16 16,
        pitch := s.outrec.pitch, yaw := s.outrec.yaw } } ∧
    exec (.regWr 0x30 v) s = .next { s with outrec := { s.outrec with pitch := v } } ∧
    exec (.regWr 0x34 v) s = .next { s with outrec := { s.outrec with yaw := v } }

/-- 44_session.md R188, 20_memory.md R56: every other write, to a read-only register, an unmapped or a misaligned offset,
raises BAD_ACCESS and changes no register. -/
def Obligations.OtherWritesRaiseBadAccess : Prop :=
  ∀ (s : State) (o : BitVec 8) (v : Word),
    o ≠ 0x00 → o ≠ 0x0C → o ≠ 0x10 → o ≠ 0x2C → o ≠ 0x30 → o ≠ 0x34 →
    exec (.regWr o v) s = .next (s.raiseError .badAccess)

/-- 10_state.md R28, R32, R33: THRESHOLD, OUTREC_HDR, OUTREC_PITCH and OUTREC_YAW read back as written, every value. -/
def Obligations.WrittenRegistersReadBackAsWritten : Prop :=
  ∀ (s t : State) (o : BitVec 8) (v : Word), o = 0x10 ∨ o = 0x2C ∨ o = 0x30 ∨ o = 0x34 →
    exec (.regWr o v) s = .next t → exec (.regRd o) t = .next { t with readLog := t.readLog ++ [v] }

/-- 44_session.md R192: a write to CMD runs the command the word encodes, raises EVENT_ONLY_CMD for an event code and
ILLEGAL_CMD for every other word, with no other effect. -/
def Obligations.CmdWriteRunsTheCommand : Prop :=
  ∀ (s : State) (c : Word),
    exec (.regWr 0x0C 1) s = exec .init s ∧ exec (.regWr 0x0C 2) s = exec .pack s ∧
    exec (.regWr 0x0C 3) s = exec .send s ∧ exec (.regWr 0x0C 4) s = exec .validate s ∧
    exec (.regWr 0x0C 5) s = exec .clrerr s ∧
    (0x80 ≤ c.toNat ∧ c.toNat ≤ 0x84 → exec (.regWr 0x0C c) s = .next (s.raiseError .eventOnlyCmd)) ∧
    (c.toNat = 0 ∨ (6 ≤ c.toNat ∧ c.toNat ≤ 0x7F) ∨ 0x85 ≤ c.toNat →
      exec (.regWr 0x0C c) s = .next (s.raiseError .illegalCmd))

/-- 10_state.md R24: where each field stands in the word STATUS reads as, reserved bits reading 0 (R45). -/
def Obligations.StatusWordPlacesTheFlags : Prop :=
  ∀ f : Status,
    f.word.getLsbD 0 = f.initDone ∧ f.word.getLsbD 1 = f.inrecValid ∧ f.word.getLsbD 2 = f.stale ∧
    f.word.getLsbD 3 = f.txBusy ∧ f.word.getLsbD 4 = f.rxPending ∧ f.word.getLsbD 5 = f.validResult ∧
    f.word.getLsbD 6 = f.err ∧ ∀ i, 7 ≤ i → f.word.getLsbD i = false

/-! ### Errors -/

/-- 60_exceptions.md R223, R224, 10_state.md R35: the codes, and the one sequence every error goes through: the first
error keeps the latch, ERR is set, FAULTS and HIST record the code, and nothing else changes. -/
def Obligations.RaiseErrorSequence : Prop :=
  (ErrCode.bits .illegalCmd = 1 ∧ ErrCode.bits .eventOnlyCmd = 2 ∧ ErrCode.bits .notInit = 3 ∧
    ErrCode.bits .alreadyInit = 4 ∧ ErrCode.bits .badThreshold = 5 ∧ ErrCode.bits .txOverrun = 6 ∧
    ErrCode.bits .badAccess = 7) ∧
  ∀ (s : State) (c : ErrCode), s.raiseError c = { s with
    errcode := if s.errcode = 0 then c.bits else s.errcode
    status := { s.status with err := true }
    faults := s.faults ++ [c]
    hist := s.hist ++ [.errorRaised c] }

/-- 60_exceptions.md R233, R235: an operation raises at most one error, and when it raises one it makes no other change:
the state is the one `raiseError` leaves, with a 0 returned to the host if the operation is a read. -/
def Obligations.AnErrorIsTheOnlyEffect : Prop :=
  ∀ (i : Instr) (s t : State), exec i s = .next t → t.faults ≠ s.faults →
    ∃ c, t = s.raiseError c ∨ ((∃ o, i = .regRd o) ∧ t = { s.raiseError c with readLog := s.readLog ++ [0] })

/-- 60_exceptions.md R227: SEND before INIT raises NOT_INIT, and only SEND raises it, as itself or as its word in CMD, and
only before INIT. -/
def Obligations.OnlySendRaisesNotInit : Prop :=
  (∀ s : State, s.status.initDone = false → exec .send s = .next (s.raiseError .notInit)) ∧
  ∀ (i : Instr) (s t : State), exec i s = .next t → t.faults = s.faults ++ [.notInit] →
    (i = .send ∨ i = .regWr 0x0C 3) ∧ s.status.initDone = false

/-- 60_exceptions.md R232, R243: every operation answers a next state in every state, but for an RX_ARRIVE of a length
other than 16, which is refused. -/
def Obligations.NothingIsFatal : Prop :=
  ∀ (i : Instr) (s : State),
    (∃ t, exec i s = .next t) ∨
    (∃ bytes, i = .rxArrive bytes ∧ bytes.length ≠ 16 ∧ exec i s = .refused .rxLength)

/-! ### Encodings and steps -/

/-- 30_encoding.md R79, R84, R88: the words the spec writes out decode to the operations they stand for. (How a row of
the opcode table stands for a transaction is the model's choice, log 15: a bare event word arrives on its port, a REG_WR
row carries data 0, and a word that is no row's gives none, though the block answers a CMD write of 6 with ILLEGAL_CMD.) -/
def Obligations.SpecWordsDecodeToTheirOperations : Prop :=
  decodeTableWord 32 0x00000001 = some .init ∧ decodeTableWord 32 0x00000002 = some .pack ∧
  decodeTableWord 32 0x00000003 = some .send ∧ decodeTableWord 32 0x00000004 = some .validate ∧
  decodeTableWord 32 0x00000005 = some .clrerr ∧ decodeTableWord 32 0x00000080 = some .decode ∧
  decodeTableWord 32 0x00000081 = some .tick ∧ decodeTableWord 32 0x00000083 = some .txDone ∧
  decodeTableWord 32 0x00000084 = some .reset ∧ decodeTableWord 16 0x410 = some (.regRd 0x10) ∧
  decodeTableWord 16 0x52C = some (.regWr 0x2C 0) ∧ decodeTableWord 32 0x00000006 = none ∧
  decodeTableWord 16 0x210 = none

/-- 30_encoding.md R79 to R82, R86: the command-word decoder is exact and total: each host command has one word, the
event codes are 0x80 to 0x84, and every other word is illegal. -/
def Obligations.CommandWordsDecodeExactly : Prop :=
  ∀ c : Word,
    (decodeCommand c = .init ↔ c.toNat = 1) ∧ (decodeCommand c = .pack ↔ c.toNat = 2) ∧
    (decodeCommand c = .send ↔ c.toNat = 3) ∧ (decodeCommand c = .validate ↔ c.toNat = 4) ∧
    (decodeCommand c = .clrerr ↔ c.toNat = 5) ∧
    (decodeCommand c = .eventOnly ↔ 0x80 ≤ c.toNat ∧ c.toNat ≤ 0x84) ∧
    (decodeCommand c = .illegal ↔ c.toNat = 0 ∨ (6 ≤ c.toNat ∧ c.toNat ≤ 0x7F) ∨ 0x85 ≤ c.toNat)

/-- 30_encoding.md R79, R84, R86: decoding the encoding of a well-formed instruction gives the instruction back. (That a
CMD write of a command word is spelt as the command, and what the encoder puts where the spec has no operand, are the model's
choices, log 9 and 14.) -/
def Obligations.DecodeInvertsEncode : Prop :=
  ∀ i : Instr, i.wellFormed = true → decode (encode i) = .ok i

/-- 30_encoding.md R84, R86: what the decoder answers is well formed, but for the length of a delivered frame, which the
port does not promise (42_transport_ports.md R143). (That a CMD write of 1 to 5 is answered as the command and never as
REG_WR, the third check of `wellFormed`, is the model's choice, log 9.) -/
def Obligations.DecodedInstructionsAreWellFormed : Prop :=
  ∀ (t : Transaction) (i : Instr), decode t = .ok i → (∀ bytes, i ≠ .rxArrive bytes) → i.wellFormed = true

/-- A step runs the decoded instruction: when the next transaction decodes to `i`, the step is `exec i` in the state with
that transaction taken off the schedule (20_memory.md R60, R61; the schedule is the model's field, log 2). -/
def Obligations.StepRunsTheDecodedTransaction : Prop :=
  ∀ (s : State) (t : Transaction) (rest : List Transaction) (i : Instr),
    s.schedule = t :: rest → decode t = .ok i → step s = exec i { s with schedule := rest }

/-- 20_memory.md R54 (60_exceptions.md R231): a bus transaction whose SIZE is not 32 bits, or whose offset is not a
multiple of 4, performs no register access: it raises BAD_ACCESS, and a read so refused returns 0. -/
def Obligations.MalformedBusTransactionRaisesBadAccess : Prop :=
  ∀ (s : State) (d : BitVec 11) (v : Word) (rest : List Transaction),
    s.schedule = .bus d v :: rest → d.extractLsb' 9 2 ≠ 0b10 ∨ (d.extractLsb' 0 8).toNat % 4 ≠ 0 →
    step s = .next
      (if d.extractLsb' 8 1 = 1 then ({ s with schedule := rest } : State).raiseError .badAccess
       else { ({ s with schedule := rest } : State).raiseError .badAccess with readLog := s.readLog ++ [0] })

/-- The model's choice (log 3; 70_reset_and_hazards.md R251, R269): with no transaction left a step is the receive
service's, so in a state where DECODE is not enabled nothing runs on its own. -/
def Obligations.IdleStepIsTheReceiveService : Prop :=
  ∀ s : State, s.schedule = [] →
    step s = exec .decode s ∧ (decodeEnabled s = false → step s = .next s)

/-- 44_session.md R193, 70_reset_and_hazards.md R269, in the model's form of the interleaving (log 2, 3): once the agents'
transactions are used up, a DECODE that is still enabled is taken by the very next step. -/
def Obligations.PendingFrameIsTakenInTheEnd : Prop :=
  ∀ s t : State, Sys2Proof.core.run s.schedule.length s = .next t → decodeEnabled t = true →
    ∃ u, step t = .next u ∧ u.status.rxPending = false

/-! ### Frames and whole-machine rules -/

/-- 20_memory.md R68 (10_state.md R38): who writes each store. -/
def Obligations.WritersOfEachStore : Prop :=
  ∀ (i : Instr) (s t : State), exec i s = .next t →
    (t.rxbuf ≠ s.rxbuf → i = .reset ∨ ∃ bytes, i = .rxArrive bytes) ∧
    (t.txbuf ≠ s.txbuf ∨ t.outrecCrc ≠ s.outrecCrc →
      i = .reset ∨ i = .pack ∨ i = .send ∨ i = .regWr 0x0C 2 ∨ i = .regWr 0x0C 3) ∧
    (t.inrec ≠ s.inrec → i = .reset ∨ (i = .decode ∧ decodeSucceeds Config.hw s = true)) ∧
    (t.outrec ≠ s.outrec → i = .reset ∨ ∃ v, i = .regWr 0x2C v ∨ i = .regWr 0x30 v ∨ i = .regWr 0x34 v) ∧
    (t.linkCnt ≠ s.linkCnt →
      i = .reset ∨ i = .init ∨ i = .regWr 0x0C 1 ∨ i = .tick ∨
      (i = .decode ∧ decodeSucceeds Config.hw s = true)) ∧
    (t.linkThr ≠ s.linkThr → i = .reset ∨ i = .init ∨ i = .regWr 0x0C 1)

/-- 10_state.md R24, R31: what sets and what clears each STATUS field. VALID_RESULT follows the CRC check of a VALIDATE (as
itself or as its word in CMD), and ERR is set by an error alone (60_exceptions.md R223), which is then the only effect (with
a 0 answered if the operation is a read; the answers are the model's field, log 5). -/
def Obligations.StatusFieldsChangeOnlyAsTheTableSays : Prop :=
  ∀ (i : Instr) (s t : State), exec i s = .next t →
    (s.status.initDone = false → t.status.initDone = true → i = .init ∨ i = .regWr 0x0C 1) ∧
    (s.status.initDone = true → t.status.initDone = false → i = .reset) ∧
    (s.status.inrecValid = false → t.status.inrecValid = true → i = .decode ∧ decodeSucceeds Config.hw s = true) ∧
    (s.status.inrecValid = true → t.status.inrecValid = false → i = .reset) ∧
    (s.status.stale = false → t.status.stale = true → i = .tick ∧ s.linkCnt = 1) ∧
    (s.status.stale = true → t.status.stale = false →
      i = .reset ∨ i = .init ∨ i = .regWr 0x0C 1 ∨ (i = .decode ∧ decodeSucceeds Config.hw s = true)) ∧
    (s.status.txBusy = false → t.status.txBusy = true → i = .send ∨ i = .regWr 0x0C 3) ∧
    (s.status.txBusy = true → t.status.txBusy = false → i = .txDone ∨ i = .reset) ∧
    (s.status.rxPending = false → t.status.rxPending = true → ∃ bytes, i = .rxArrive bytes) ∧
    (s.status.rxPending = true → t.status.rxPending = false → i = .decode ∨ i = .reset) ∧
    (s.status.validResult = false → t.status.validResult = true →
      (i = .validate ∨ i = .regWr 0x0C 4) ∧ frameValid Config.hw s.rxbuf = true) ∧
    (s.status.validResult = true → t.status.validResult = false →
      i = .reset ∨ ((i = .validate ∨ i = .regWr 0x0C 4) ∧ frameValid Config.hw s.rxbuf = false)) ∧
    (s.status.err = false → t.status.err = true →
      ∃ c, t = s.raiseError c ∨ ((∃ o, i = .regRd o) ∧ t = { s.raiseError c with readLog := s.readLog ++ [0] })) ∧
    (s.status.err = true → t.status.err = false → i = .clrerr ∨ i = .regWr 0x0C 5 ∨ i = .reset)

/-- 43_link_supervisor.md R169: after INIT, only a decode success reloads: every operation but a tick, a decode success
and the reset input leaves LINK_CNT as it is. -/
def Obligations.OnlyADecodeSuccessReloads : Prop :=
  ∀ (i : Instr) (s t : State), exec i s = .next t → s.status.initDone = true → i ≠ .tick → i ≠ .reset →
    (i = .decode → decodeSucceeds Config.hw s = false) → t.linkCnt = s.linkCnt

/-- 70_reset_and_hazards.md R261: from a state that holds reception, a run with no CTRL write and no reset leaves INREC
and INREC_VALID as they are, whatever arrives. -/
def Obligations.HoldKeepsTheInboundRecord : Prop :=
  ∀ (is : List Instr) (s t : State), s.rxHold = true → (∀ i ∈ is, i ≠ .reset ∧ ∀ v, i ≠ .regWr 0x00 v) →
    runInstrs is s = .next t → t.rxHold = true ∧ t.inrec = s.inrec ∧ t.status.inrecValid = s.status.inrecValid

/-- The model's own fields (log 2, 5): no operation touches the transactions still to come, and only a register read
adds to the words returned to the host, one word a read. -/
def Obligations.OnlyReadsAnswerTheHost : Prop :=
  ∀ (i : Instr) (s t : State), exec i s = .next t →
    t.schedule = s.schedule ∧
    ((∃ o, i = .regRd o) ∧ (∃ v, t.readLog = s.readLog ++ [v]) ∨ (∀ o, i ≠ .regRd o) ∧ t.readLog = s.readLog)

/-- 10_state.md R43: no step removes an event from HIST or a code from FAULTS. -/
def Obligations.HistoryOnlyGrows : Prop :=
  ∀ s t : State, step s = .next t → s.hist <+: t.hist ∧ s.faults <+: t.faults

/-- 20_memory.md R63 (70_reset_and_hazards.md R260): with reception not held, a DECODE between two reads of INREC gives
the host the pitch of one frame and the yaw of another. -/
def Obligations.UnheldReadsMayTear : Prop :=
  ∀ s : State, s.status.initDone = true → s.status.rxPending = true → s.rxHold = false →
    s.rxbuf.read 0 = Config.hw.rxSof → crcOf Config.hw s.rxbuf = crcField s.rxbuf →
    ∃ t, runInstrs [.regRd 0x20, .decode, .regRd 0x24] s = .next t ∧
      t.readLog = s.readLog ++ [s.inrec.pitch, le32 s.rxbuf 6]

/-- 43_link_supervisor.md R168: from a fresh counter, over a run with k ticks and no decode success (and no reset), there
are exactly k / N expiries, and the counter stands where N ticks a period leave it. -/
def Obligations.OneExpiryPerThresholdOfTicks : Prop :=
  ∀ (is : List Instr) (s t : State),
    s.status.initDone = true → s.linkThr ≠ 0 → s.linkCnt = s.linkThr → NoReload is s → runInstrs is s = .next t →
    t.hist.count .reinitReq = s.hist.count .reinitReq + is.count .tick / s.linkThr.toNat ∧
    t.hist.count (.diag .linkOffline) = s.hist.count (.diag .linkOffline) + is.count .tick / s.linkThr.toNat ∧
    t.linkCnt.toNat = s.linkThr.toNat - is.count .tick % s.linkThr.toNat ∧ t.linkThr = s.linkThr

/-! ### The codec end to end -/

/-- 41_frame_codec.md R128: if OUTREC's marker is P_RX_SOF and PACK runs, UNPACK_FN of TXBUF returns the record, every
field bit for bit. -/
def Obligations.PackedFrameUnpacksToTheRecord : Prop :=
  ∀ s t : State, s.status.txBusy = false → s.outrec.sof = Config.hw.rxSof → exec .pack s = .next t →
    unpackFn Config.hw t.txbuf = some
      { sof := s.outrec.sof, fire := s.outrec.fire, pitch := s.outrec.pitch, yaw := s.outrec.yaw,
        rsvd := s.outrec.rsvd, crc := t.outrecCrc }

/-- The round trip over the ports (44_session.md R180; 41_frame_codec.md R128): the bytes PACK puts in TXBUF, delivered
to an initialized block that does not hold reception, are decoded to the record they were packed from. -/
def Obligations.DeliveredFrameDecodesToTheRecord : Prop :=
  ∀ s p r u : State, s.status.txBusy = false → s.outrec.sof = Config.hw.rxSof → exec .pack s = .next p →
    r.status.initDone = true → r.rxHold = false →
    runInstrs [.rxArrive p.txbuf.bytes, .decode] r = .next u →
    u.inrec = { sof := s.outrec.sof, fire := s.outrec.fire, pitch := s.outrec.pitch, yaw := s.outrec.yaw,
                rsvd := s.outrec.rsvd, crc := p.outrecCrc } ∧
    u.status.inrecValid = true ∧ u.linkCnt = r.linkThr

/-- 40_crc_validator.md R102 (the document's tamper property): under parameters whose primitive has CRC_SINGLE_BIT, a
good frame with any one bit of bytes 0 to 11 flipped is dropped: INREC and LINK_CNT stay as they are. (The machine's
DECODE is this function at its own parameters.) -/
def Obligations.OneFlippedBitIsDropped : Prop :=
  (∀ s : State, exec .decode s = .next (decodeUnder Config.hw s)) ∧
  ∀ cfg : Config, CrcSingleBit cfg.crcWords →
    ∀ (s : State) (m : Memory) (a : FrameAddr) (j : Fin 8), m.wf → a.val < 12 →
      crcOf cfg m = crcField m → s.rxbuf = m.write a (m.read a ^^^ (1#8 <<< j.val)) →
      unpackFn cfg s.rxbuf = none ∧ (decodeUnder cfg s).inrec = s.inrec ∧ (decodeUnder cfg s).linkCnt = s.linkCnt

/-- 40_crc_validator.md R101, R102 (from the spec's general knowledge, log 16): the default instance CRC_STM32 has
CRC_SINGLE_BIT. -/
def Obligations.DefaultCrcDetectsEverySingleBit : Prop := CrcSingleBit crcStm32

/-! ### Invariants -/

/-- Every invariant holds right after reset. -/
def Obligations.ResetMeetsEveryInvariant : Prop :=
  State.reset.BuffersCanonical ∧ State.reset.SupervisorBounded ∧ State.reset.LatchConsistent ∧
  State.reset.QuietBeforeInit ∧ State.reset.TransmitHeld ∧ State.reset.OutboundSound ∧ State.reset.InboundSound

/-- Every step keeps both buffers in canonical form. -/
def Obligations.StepKeepsBuffersCanonical : Prop :=
  ∀ s t : State, s.BuffersCanonical → step s = .next t → t.BuffersCanonical

/-- 43_link_supervisor.md R170: between steps 1 <= LINK_CNT <= LINK_THR after INIT, and LINK_CNT = 0 before. -/
def Obligations.StepKeepsSupervisorBounded : Prop :=
  ∀ s t : State, s.SupervisorBounded → step s = .next t → t.SupervisorBounded

/-- 10_state.md R31, R35, R43: STATUS.ERR is 1 exactly when ERRCODE is not 0, a latched code is one that was raised, and
FAULTS lists the ErrorRaised events of HIST. -/
def Obligations.StepKeepsLatchConsistent : Prop :=
  ∀ s t : State, s.LatchConsistent → step s = .next t → t.LatchConsistent

/-- 70_reset_and_hazards.md R251, R253: before INIT nothing is pending, in flight, decoded or stale, and RXBUF is as
reset left it. -/
def Obligations.StepKeepsQuietBeforeInit : Prop :=
  ∀ s t : State, s.QuietBeforeInit → step s = .next t → t.QuietBeforeInit

/-- 42_transport_ports.md R145, 44_session.md R185: while TX_BUSY is 1, TXBUF holds the bytes of the last TxSend. -/
def Obligations.StepKeepsTheFrameInFlight : Prop :=
  ∀ s t : State, s.TransmitHeld → step s = .next t → t.TransmitHeld

/-- 30_encoding.md R73: the outbound frame carries the CRC of its own prefix, and OUTREC_CRC is it. -/
def Obligations.StepKeepsOutboundSound : Prop :=
  ∀ s t : State, s.OutboundSound → step s = .next t → t.OutboundSound

/-- 41_frame_codec.md R125, 44_session.md R195: whenever INREC_VALID is 1 the record a host reads has the marker P_RX_SOF
and the CRC of its own fields; corrupt data never reaches it. -/
def Obligations.StepKeepsInboundSound : Prop :=
  ∀ s t : State, s.InboundSound → step s = .next t → t.InboundSound

/-- 20_memory.md R61: every interleaving of the agents' steps from reset, of every length, keeps every invariant: the
schedule is any list of transactions (log 2). The runs start from State.reset, whose empty HIST and FAULTS are the model's
choice (log 10): LatchConsistent's clause that FAULTS lists the ErrorRaised events of HIST rests on them. -/
def Obligations.EveryInterleavingKeepsEveryInvariant : Prop :=
  ∀ (sched : List Transaction) (n : Nat) (t : State),
    Sys2Proof.core.run n { State.reset with schedule := sched } = .next t →
    t.BuffersCanonical ∧ t.SupervisorBounded ∧ t.LatchConsistent ∧ t.QuietBeforeInit ∧ t.TransmitHeld ∧
    t.OutboundSound ∧ t.InboundSound
end

