-- ==== Sys2Proof/Laws/Memory.lean ====
section
/-! SUPPORT. The frame buffers: a read after a write, the canonical form, the bytes of a buffer, and the little-endian
fields (20_memory.md R51). -/

namespace Sys2Proof.Machine

/-! ### Cells -/

theorem Memory.lookup_eq_zero (m : Memory) (k : Nat) (h : ∀ c ∈ m, c.1 ≠ k) : m.lookup k = 0#8 := by
  induction m with
  | nil => rfl
  | cons c rest ih =>
    obtain ⟨a, b⟩ := c
    have hne : a ≠ k := h (a, b) (by simp)
    simpa [Memory.lookup, hne] using ih fun c hc => h c (by simp [hc])

/-- Reading the cells after a byte is put among them, when the addresses rise strictly. -/
theorem Memory.lookup_insert (m : Memory) (hs : m.Pairwise fun c d => c.1 < d.1) (k : Nat) (v : Byte) (j : Nat) :
    (m.insert k v).lookup j = if j = k then v else m.lookup j := by
  induction m with
  | nil =>
    have hj : (k = j) = (j = k) := propext eq_comm
    by_cases hv : v = 0#8 <;> simp [Memory.insert, Memory.lookup, hv, hj]
  | cons c rest ih =>
    obtain ⟨a, b⟩ := c
    obtain ⟨hlt, hrest⟩ := List.pairwise_cons.mp hs
    have above : ∀ n, n ≤ a → Memory.lookup rest n = 0#8 := fun n hn =>
      Memory.lookup_eq_zero rest n fun c hc => by have := hlt c hc; simp only at this; omega
    have ih := ih hrest
    by_cases h1 : k < a
    · by_cases hj : j = k
      · subst hj
        by_cases hv : v = 0#8 <;> simp [Memory.insert, h1, hv, Memory.lookup]
        have : a ≠ j := by omega
        simp [this, above j (by omega)]
      · have hk : k ≠ j := fun h => hj h.symm
        by_cases hv : v = 0#8 <;> simp [Memory.insert, h1, hv, Memory.lookup, hj, hk]
    · by_cases h2 : a = k
      · subst h2
        by_cases hj : j = a
        · subst hj
          by_cases hv : v = 0#8 <;> simp [Memory.insert, hv, Memory.lookup, above j (Nat.le_refl _)]
        · have ha : a ≠ j := fun h => hj h.symm
          by_cases hv : v = 0#8 <;> simp [Memory.insert, hv, Memory.lookup, hj, ha]
      · by_cases hja : a = j
        · subst hja
          simp [Memory.insert, h1, h2, Memory.lookup]
        · simp [Memory.insert, h1, h2, Memory.lookup, hja, ih]

theorem Memory.insert_mem (m : Memory) (k : Nat) (v : Byte) {c : Host.Cell} (h : c ∈ m.insert k v) :
    c ∈ m ∨ (c = (k, v) ∧ v ≠ 0#8) := by
  induction m with
  | nil =>
    by_cases hv : v = 0#8 <;> simp_all [Memory.insert]
  | cons d rest ih =>
    obtain ⟨a, b⟩ := d
    by_cases h1 : k < a <;> by_cases h2 : a = k <;> by_cases hv : v = 0#8 <;>
      simp only [Memory.insert, h1, h2, hv, if_true, if_false, List.mem_cons, Nat.lt_irrefl] at h ih ⊢ <;>
      tauto

/-- Putting a byte at an address of the buffer keeps the canonical form. -/
theorem Memory.insert_wf (m : Memory) (hm : m.wf) (k : Nat) (hk : k < 16) (v : Byte) : (m.insert k v).wf := by
  refine ⟨?_, fun c hc => ?_⟩
  · obtain ⟨hs, -⟩ := hm
    induction m with
    | nil => by_cases hv : v = 0#8 <;> simp [Memory.insert, hv]
    | cons d rest ih =>
      obtain ⟨a, b⟩ := d
      obtain ⟨hlt, hrest⟩ := List.pairwise_cons.mp hs
      by_cases h1 : k < a
      · by_cases hv : v = 0#8
        · simpa [Memory.insert, h1, hv] using hs
        · simp only [Memory.insert, h1, hv, if_true, if_false]
          refine List.pairwise_cons.mpr ⟨fun c hc => ?_, hs⟩
          rcases List.mem_cons.mp hc with rfl | hc
          · exact h1
          · exact Nat.lt_trans h1 (hlt c hc)
      · by_cases h2 : a = k
        · by_cases hv : v = 0#8
          · simpa [Memory.insert, h1, h2, hv] using hrest
          · simp only [Memory.insert, h2, hv, if_true, if_false, Nat.lt_irrefl]
            exact List.pairwise_cons.mpr ⟨fun c hc => h2 ▸ hlt c hc, hrest⟩
        · simp only [Memory.insert, h1, h2, if_false]
          refine List.pairwise_cons.mpr ⟨fun c hc => ?_, ih hrest⟩
          rcases Memory.insert_mem rest k v hc with hc | ⟨rfl, -⟩
          · exact hlt c hc
          · simp only; omega
  · rcases m.insert_mem k v hc with hc | ⟨rfl, hv⟩
    · exact hm.2 c hc
    · exact ⟨hk, hv⟩

/-- Two canonical buffers with the same bytes are the same data. -/
theorem Memory.ext_of_wf {m n : Memory} (hm : m.wf) (hn : n.wf) (h : ∀ a : FrameAddr, m.read a = n.read a) : m = n := by
  have hl : ∀ k, m.lookup k = n.lookup k := fun k => by
    by_cases hk : k < 16
    · exact h ⟨k, hk⟩
    · rw [Memory.lookup_eq_zero m k fun c hc => by have := (hm.2 c hc).1; omega,
        Memory.lookup_eq_zero n k fun c hc => by have := (hn.2 c hc).1; omega]
  clear h
  obtain ⟨hsm, hm⟩ := hm
  obtain ⟨hsn, hn⟩ := hn
  induction m generalizing n with
  | nil =>
    cases n with
    | nil => rfl
    | cons d n =>
      have := hl d.1
      simp only [Memory.lookup, if_true] at this
      exact absurd this.symm (hn d (by simp)).2
  | cons c m ih =>
    cases n with
    | nil =>
      have := hl c.1
      simp only [Memory.lookup, if_true] at this
      exact absurd this (hm c (by simp)).2
    | cons d n =>
      obtain ⟨a, b⟩ := c
      obtain ⟨a', b'⟩ := d
      obtain ⟨hlm, hpm⟩ := List.pairwise_cons.mp hsm
      obtain ⟨hln, hpn⟩ := List.pairwise_cons.mp hsn
      have zm : ∀ k, k ≤ a → Memory.lookup m k = 0#8 := fun k hk =>
        Memory.lookup_eq_zero m k fun c hc => by have := hlm c hc; simp only at this; omega
      have zn : ∀ k, k ≤ a' → Memory.lookup n k = 0#8 := fun k hk =>
        Memory.lookup_eq_zero n k fun c hc => by have := hln c hc; simp only at this; omega
      have haa : a = a' := by
        rcases Nat.lt_trichotomy a a' with hlt | rfl | hlt
        · have := hl a
          simp [Memory.lookup, show a' ≠ a by omega, zn a (by omega)] at this
          exact absurd this (hm (a, b) (by simp)).2
        · rfl
        · have := hl a'
          simp [Memory.lookup, show a ≠ a' by omega, zm a' (by omega)] at this
          exact absurd this.symm (hn (a', b') (by simp)).2
      subst haa
      have hbb : b = b' := by simpa [Memory.lookup] using hl a
      subst hbb
      congr 1
      refine ih (fun k => ?_) hpm (fun c hc => hm c (by simp [hc])) hpn (fun c hc => hn c (by simp [hc]))
      by_cases hk : k ≤ a
      · rw [zm k hk, zn k hk]
      · have := hl k
        simpa [Memory.lookup, show a ≠ k by omega] using this

/-! ### Bytes of a buffer -/

@[simp] theorem Memory.read_nil (a : FrameAddr) : Memory.read [] a = 0#8 := rfl

theorem Memory.read_write (m : Memory) (hm : m.wf) (a : FrameAddr) (v : Byte) (b : FrameAddr) :
    (m.write a v).read b = if b = a then v else m.read b := by
  have := m.lookup_insert hm.1 a v b
  simpa [Memory.read, Memory.write, Fin.ext_iff] using this

theorem Memory.wf_nil : Memory.wf [] := ⟨List.Pairwise.nil, fun _ h => absurd h (by simp)⟩

theorem Memory.write_wf (m : Memory) (hm : m.wf) (a : FrameAddr) (v : Byte) : (m.write a v).wf :=
  m.insert_wf hm a a.isLt v

theorem Memory.write16_wf (m : Memory) (hm : m.wf) (o : Nat) (v : Half) (h : o + 1 < 16) : (m.write16 o v h).wf :=
  Memory.write_wf _ (Memory.write_wf _ hm _ _) _ _

theorem Memory.write32_wf (m : Memory) (hm : m.wf) (o : Nat) (v : Word) (h : o + 3 < 16) : (m.write32 o v h).wf :=
  Memory.write_wf _ (Memory.write_wf _ (Memory.write_wf _ (Memory.write_wf _ hm _ _) _ _) _ _) _ _

theorem Memory.read_write16 (m : Memory) (hm : m.wf) (o : Nat) (v : Half) (h : o + 1 < 16) (b : FrameAddr) :
    (m.write16 o v h).read b =
      if b.val = o + 1 then v.extractLsb' 8 8 else if b.val = o then v.extractLsb' 0 8 else m.read b := by
  simp only [Memory.write16, Memory.read_write _ (Memory.write_wf _ hm _ _), Memory.read_write _ hm, Fin.ext_iff]

theorem Memory.read_write32 (m : Memory) (hm : m.wf) (o : Nat) (v : Word) (h : o + 3 < 16) (b : FrameAddr) :
    (m.write32 o v h).read b =
      if b.val = o + 3 then v.extractLsb' 24 8 else if b.val = o + 2 then v.extractLsb' 16 8
      else if b.val = o + 1 then v.extractLsb' 8 8 else if b.val = o then v.extractLsb' 0 8 else m.read b := by
  have w1 := Memory.write_wf m hm ⟨o, by omega⟩ (v.extractLsb' 0 8)
  have w2 := Memory.write_wf _ w1 ⟨o + 1, by omega⟩ (v.extractLsb' 8 8)
  have w3 := Memory.write_wf _ w2 ⟨o + 2, by omega⟩ (v.extractLsb' 16 8)
  simp only [Memory.write32, Memory.read_write _ w3, Memory.read_write _ w2, Memory.read_write _ w1,
    Memory.read_write _ hm, Fin.ext_iff]

theorem Memory.ofBytesFrom_above (k : Nat) (bs : List Byte) : ∀ c ∈ Memory.ofBytesFrom k bs, k ≤ c.1 := by
  induction bs generalizing k with
  | nil => simp [Memory.ofBytesFrom]
  | cons b bs ih =>
    intro c hc
    by_cases hb : b = 0#8
    · simp only [Memory.ofBytesFrom, hb, if_true] at hc
      exact Nat.le_of_succ_le (ih (k + 1) c hc)
    · simp only [Memory.ofBytesFrom, hb, if_false, List.mem_cons] at hc
      rcases hc with rfl | hc
      · exact Nat.le_refl _
      · exact Nat.le_of_succ_le (ih (k + 1) c hc)

theorem Memory.ofBytesFrom_wf (k : Nat) (bs : List Byte) (h : k + bs.length ≤ 16) :
    (Memory.ofBytesFrom k bs).wf := by
  induction bs generalizing k with
  | nil => exact Memory.wf_nil
  | cons b bs ih =>
    have h' : k + 1 + bs.length ≤ 16 := by simp only [List.length_cons] at h; omega
    by_cases hb : b = 0#8
    · simpa only [Memory.ofBytesFrom, hb, if_true] using ih (k + 1) h'
    · simp only [Memory.ofBytesFrom, hb, if_false]
      refine ⟨List.pairwise_cons.mpr ⟨fun c hc => Memory.ofBytesFrom_above (k + 1) bs c hc, (ih _ h').1⟩, ?_⟩
      intro c hc
      rcases List.mem_cons.mp hc with rfl | hc
      · exact ⟨by simp only; omega, hb⟩
      · exact (ih _ h').2 c hc

theorem Memory.ofBytes_wf (bs : List Byte) (h : bs.length ≤ 16) : (Memory.ofBytes bs).wf :=
  Memory.ofBytesFrom_wf 0 bs (by omega)

theorem Memory.lookup_ofBytesFrom (k : Nat) (bs : List Byte) (j : Nat) :
    (Memory.ofBytesFrom k bs).lookup (k + j) = bs.getD j 0#8 := by
  induction bs generalizing k j with
  | nil => rfl
  | cons b bs ih =>
    cases j with
    | zero =>
      by_cases hb : b = 0#8
      · simp only [Memory.ofBytesFrom, hb, if_true]
        exact Memory.lookup_eq_zero _ _ fun c hc => by
          have := Memory.ofBytesFrom_above (k + 1) bs c hc; omega
      · simp [Memory.ofBytesFrom, hb, Memory.lookup]
    | succ j =>
      have := ih (k + 1) j
      rw [show k + 1 + j = k + (j + 1) by omega] at this
      by_cases hb : b = 0#8
      · simpa [Memory.ofBytesFrom, hb] using this
      · simpa [Memory.ofBytesFrom, hb, Memory.lookup] using this

/-- Byte `a` of the buffer laid out from `bs` is byte `a` of `bs`. -/
theorem Memory.read_ofBytes (bs : List Byte) (a : FrameAddr) : (Memory.ofBytes bs).read a = bs.getD a 0#8 := by
  have := Memory.lookup_ofBytesFrom 0 bs a
  simpa [Memory.read, Memory.ofBytes] using this

/-! ### Little-endian fields (20_memory.md R51) -/

/-- Four bytes put together and the word they come from. -/
theorem join32_split (v : Word) :
    (v.extractLsb' 0 8).setWidth 32 ||| (v.extractLsb' 8 8).setWidth 32 <<< 8 |||
      (v.extractLsb' 16 8).setWidth 32 <<< 16 ||| (v.extractLsb' 24 8).setWidth 32 <<< 24 = v := by
  refine BitVec.eq_of_getLsbD_eq fun i hi => ?_
  interval_cases i <;> simp

/-- Two bytes put together and the half-word they come from. -/
theorem join16_split (v : Half) :
    (v.extractLsb' 0 8).setWidth 16 ||| (v.extractLsb' 8 8).setWidth 16 <<< 8 = v := by
  refine BitVec.eq_of_getLsbD_eq fun i hi => ?_
  interval_cases i <;> simp

theorem le32_congr {m n : Memory} (o : Nat) (h : o + 3 < 16)
    (hr : ∀ a : FrameAddr, o ≤ a.val → a.val ≤ o + 3 → m.read a = n.read a) : le32 m o h = le32 n o h := by
  simp only [le32]
  rw [hr ⟨o, by omega⟩ (by simp) (by simp), hr ⟨o + 1, by omega⟩ (by simp) (by simp),
    hr ⟨o + 2, by omega⟩ (by simp) (by simp), hr ⟨o + 3, by omega⟩ (by simp) (by simp)]

theorem le16_congr {m n : Memory} (o : Nat) (h : o + 1 < 16)
    (hr : ∀ a : FrameAddr, o ≤ a.val → a.val ≤ o + 1 → m.read a = n.read a) : le16 m o h = le16 n o h := by
  simp only [le16]
  rw [hr ⟨o, by omega⟩ (by simp) (by simp), hr ⟨o + 1, by omega⟩ (by simp) (by simp)]

/-- Reading back a word just written (20_memory.md R51). -/
theorem le32_write32 (m : Memory) (hm : m.wf) (o : Nat) (v : Word) (h : o + 3 < 16) : le32 (m.write32 o v h) o h = v := by
  simp only [le32, Memory.read_write32 m hm]
  simpa using join32_split v

/-- Reading back a half-word just written (20_memory.md R51). -/
theorem le16_write16 (m : Memory) (hm : m.wf) (o : Nat) (v : Half) (h : o + 1 < 16) : le16 (m.write16 o v h) o h = v := by
  simp only [le16, Memory.read_write16 m hm]
  simpa using join16_split v

/-- The four bytes of a little-endian word. -/
theorem le32_bytes (m : Memory) (o : Nat) (h : o + 3 < 16) :
    (le32 m o h).extractLsb' 0 8 = m.read ⟨o, by omega⟩ ∧ (le32 m o h).extractLsb' 8 8 = m.read ⟨o + 1, by omega⟩ ∧
    (le32 m o h).extractLsb' 16 8 = m.read ⟨o + 2, by omega⟩ ∧
    (le32 m o h).extractLsb' 24 8 = m.read ⟨o + 3, by omega⟩ := by
  simp only [le32]
  refine ⟨?_, ?_, ?_, ?_⟩ <;>
    · refine BitVec.eq_of_getLsbD_eq fun i hi => ?_
      interval_cases i <;> simp

/-- The two bytes of a little-endian half-word. -/
theorem le16_bytes (m : Memory) (o : Nat) (h : o + 1 < 16) :
    (le16 m o h).extractLsb' 0 8 = m.read ⟨o, by omega⟩ ∧
    (le16 m o h).extractLsb' 8 8 = m.read ⟨o + 1, by omega⟩ := by
  simp only [le16]
  refine ⟨?_, ?_⟩ <;>
    · refine BitVec.eq_of_getLsbD_eq fun i hi => ?_
      interval_cases i <;> simp

/-- The lowest byte of a 32-bit number put together from four, byte by byte. -/
theorem append_bytes32 (a b c d : Byte) :
    (d ++ c ++ b ++ a : BitVec (8 + 8 + 8 + 8)) =
      a.setWidth (8 + 8 + 8 + 8) ||| b.setWidth (8 + 8 + 8 + 8) <<< 8 ||| c.setWidth (8 + 8 + 8 + 8) <<< 16 |||
        d.setWidth (8 + 8 + 8 + 8) <<< 24 := by
  refine BitVec.eq_of_getLsbD_eq fun i hi => ?_
  simp only [BitVec.getLsbD_append, BitVec.getLsbD_or, BitVec.getLsbD_shiftLeft, BitVec.getLsbD_setWidth]
  have : i < 32 := hi
  interval_cases i <;> simp

theorem append_bytes16 (a b : Byte) :
    (b ++ a : BitVec (8 + 8)) = a.setWidth (8 + 8) ||| b.setWidth (8 + 8) <<< 8 := by
  refine BitVec.eq_of_getLsbD_eq fun i hi => ?_
  simp only [BitVec.getLsbD_append, BitVec.getLsbD_or, BitVec.getLsbD_shiftLeft, BitVec.getLsbD_setWidth]
  have : i < 16 := hi
  interval_cases i <;> simp

/-- A little-endian word is its four bytes, the last one highest (20_memory.md R51). -/
theorem le32_eq_append (m : Memory) (o : Nat) (h : o + 3 < 16) :
    le32 m o h = m.read ⟨o + 3, by omega⟩ ++ m.read ⟨o + 2, by omega⟩ ++ m.read ⟨o + 1, by omega⟩ ++
      m.read ⟨o, by omega⟩ :=
  (append_bytes32 _ _ _ _).symm

/-- A little-endian half-word is its two bytes, the last one highest (20_memory.md R51). -/
theorem le16_eq_append (m : Memory) (o : Nat) (h : o + 1 < 16) :
    le16 m o h = m.read ⟨o + 1, by omega⟩ ++ m.read ⟨o, by omega⟩ :=
  (append_bytes16 _ _).symm

theorem append_header (sof fire : Byte) (rsvd : Half) :
    (rsvd ++ fire ++ sof : BitVec (16 + 8 + 8)) =
      rsvd.setWidth (16 + 8 + 8) <<< 16 ||| fire.setWidth (16 + 8 + 8) <<< 8 ||| sof.setWidth (16 + 8 + 8) := by
  refine BitVec.eq_of_getLsbD_eq fun i hi => ?_
  simp only [BitVec.getLsbD_append, BitVec.getLsbD_or, BitVec.getLsbD_shiftLeft, BitVec.getLsbD_setWidth]
  have : i < 32 := hi
  interval_cases i <;> simp

/-- A header word is RSVD, FIRE and SOF side by side (10_state.md R32, R39). -/
theorem headerWord_eq_append (sof fire : Byte) (rsvd : Half) : headerWord sof fire rsvd = rsvd ++ fire ++ sof :=
  (append_header sof fire rsvd).symm

/-! ### A buffer and its bytes -/

/-- A canonical buffer is the one its 16 bytes lay out. -/
theorem Memory.ofBytes_bytes (m : Memory) (h : m.wf) : Memory.ofBytes m.bytes = m := by
  refine Memory.ext_of_wf (Memory.ofBytes_wf _ (by simp [Memory.bytes])) h fun a => ?_
  rw [Memory.read_ofBytes]
  obtain ⟨a, ha⟩ := a
  interval_cases a <;> simp [Memory.bytes]

/-- The 16 bytes of the buffer that 16 bytes lay out are those bytes. -/
theorem Memory.bytes_ofBytes (bs : List Byte) (h : bs.length = 16) : (Memory.ofBytes bs).bytes = bs := by
  simp only [Memory.bytes, Memory.read_ofBytes]
  refine List.ext_getElem (by simp [h]) fun k h1 _ => ?_
  have hk : k < 16 := by simpa using h1
  interval_cases k <;> simp [h]

end Sys2Proof.Machine
end

