-- ==== Sys2Proof/Laws/Codec.lean ====
section
/-! SUPPORT. The frame PACK_FN builds (41_frame_codec.md R120), field by field, and what UNPACK_FN takes from a buffer
(R123). -/

namespace Sys2Proof.Machine

/-! ### The packed prefix -/

theorem packPrefix_wf (r : OutRec) : (packPrefix r).wf :=
  Memory.write16_wf _ (Memory.write32_wf _ (Memory.write32_wf _ (Memory.write_wf _ (Memory.write_wf _ Memory.wf_nil _ _)
    _ _) _ _ _) _ _ _) _ _ _

theorem packFrame_wf (cfg : Config) (r : OutRec) : (packFrame cfg r).wf :=
  Memory.write32_wf _ (packPrefix_wf r) _ _ _

/-- Every byte of the packed prefix; bytes 12 to 15 are still 0x00 (41_frame_codec.md R120). -/
theorem packPrefix_read (r : OutRec) (a : FrameAddr) :
    (packPrefix r).read a =
      if a.val = 11 then r.rsvd.extractLsb' 8 8 else if a.val = 10 then r.rsvd.extractLsb' 0 8
      else if a.val = 9 then r.yaw.extractLsb' 24 8 else if a.val = 8 then r.yaw.extractLsb' 16 8
      else if a.val = 7 then r.yaw.extractLsb' 8 8 else if a.val = 6 then r.yaw.extractLsb' 0 8
      else if a.val = 5 then r.pitch.extractLsb' 24 8 else if a.val = 4 then r.pitch.extractLsb' 16 8
      else if a.val = 3 then r.pitch.extractLsb' 8 8 else if a.val = 2 then r.pitch.extractLsb' 0 8
      else if a.val = 1 then r.fire else if a.val = 0 then r.sof else 0#8 := by
  have w0 := Memory.write_wf [] Memory.wf_nil 0 r.sof
  have w1 := Memory.write_wf _ w0 1 r.fire
  have w2 := Memory.write32_wf _ w1 2 r.pitch (by decide)
  have w3 := Memory.write32_wf _ w2 6 r.yaw (by decide)
  simp only [packPrefix, Memory.read_write16 _ w3, Memory.read_write32 _ w2, Memory.read_write32 _ w1,
    Memory.read_write _ w0, Memory.read_write _ Memory.wf_nil, Memory.read_nil, Fin.ext_iff, Fin.val_zero, Fin.val_one]

/-- Below offset 12 the whole frame is the prefix (41_frame_codec.md R120). -/
theorem packFrame_read_prefix (cfg : Config) (r : OutRec) (a : FrameAddr) (h : a.val < 12) :
    (packFrame cfg r).read a = (packPrefix r).read a := by
  simp only [packFrame, Memory.read_write32 _ (packPrefix_wf r)]
  rw [if_neg (by omega), if_neg (by omega), if_neg (by omega), if_neg (by omega)]

/-- The CRC field of the packed frame is the CRC of its prefix (41_frame_codec.md R120, 30_encoding.md R73). -/
theorem crcField_packFrame (cfg : Config) (r : OutRec) : crcField (packFrame cfg r) = crcOf cfg (packPrefix r) :=
  le32_write32 _ (packPrefix_wf r) 12 _ (by decide)

theorem crcWordList_congr {m n : Memory} (h : ∀ a : FrameAddr, a.val < 12 → m.read a = n.read a) :
    crcWordList m = crcWordList n := by
  simp only [crcWordList]
  rw [le32_congr 0 (by decide) fun a _ ha => h a (by omega), le32_congr 4 (by decide) fun a _ ha => h a (by omega),
    le32_congr 8 (by decide) fun a _ ha => h a (by omega)]

theorem crcWordList_packFrame (cfg : Config) (r : OutRec) :
    crcWordList (packFrame cfg r) = crcWordList (packPrefix r) :=
  crcWordList_congr fun a ha => packFrame_read_prefix cfg r a ha

theorem crcOf_packFrame (cfg : Config) (r : OutRec) : crcOf cfg (packFrame cfg r) = crcOf cfg (packPrefix r) := by
  simp only [crcOf, crcWordList_packFrame]

/-! ### What is read back -/

/-- `le32` of four known bytes. -/
theorem le32_of_bytes (m : Memory) (o : Nat) (h : o + 3 < 16) (v : Word)
    (h0 : m.read ⟨o, by omega⟩ = v.extractLsb' 0 8) (h1 : m.read ⟨o + 1, by omega⟩ = v.extractLsb' 8 8)
    (h2 : m.read ⟨o + 2, by omega⟩ = v.extractLsb' 16 8) (h3 : m.read ⟨o + 3, by omega⟩ = v.extractLsb' 24 8) :
    le32 m o h = v := by
  simp only [le32, h0, h1, h2, h3]
  exact join32_split v

/-- `le16` of two known bytes. -/
theorem le16_of_bytes (m : Memory) (o : Nat) (h : o + 1 < 16) (v : Half)
    (h0 : m.read ⟨o, by omega⟩ = v.extractLsb' 0 8) (h1 : m.read ⟨o + 1, by omega⟩ = v.extractLsb' 8 8) :
    le16 m o h = v := by
  simp only [le16, h0, h1]
  exact join16_split v

/-- The fields of the packed prefix, at their fixed offsets (30_encoding.md R71). -/
theorem packPrefix_fields (r : OutRec) :
    (packPrefix r).read 0 = r.sof ∧ (packPrefix r).read 1 = r.fire ∧ le32 (packPrefix r) 2 = r.pitch ∧
    le32 (packPrefix r) 6 = r.yaw ∧ le16 (packPrefix r) 10 = r.rsvd := by
  refine ⟨by rw [packPrefix_read]; rfl, by rw [packPrefix_read]; rfl, le32_of_bytes _ _ _ _ ?_ ?_ ?_ ?_,
    le32_of_bytes _ _ _ _ ?_ ?_ ?_ ?_, le16_of_bytes _ _ _ _ ?_ ?_⟩ <;>
    simp [packPrefix_read]

/-- The fields of the whole packed frame (30_encoding.md R71, 41_frame_codec.md R128). -/
theorem frameRecord_packFrame (cfg : Config) (r : OutRec) :
    frameRecord (packFrame cfg r) =
      { sof := r.sof, fire := r.fire, pitch := r.pitch, yaw := r.yaw, rsvd := r.rsvd,
        crc := crcOf cfg (packPrefix r) } := by
  obtain ⟨h0, h1, h2, h3, h4⟩ := packPrefix_fields r
  have low := packFrame_read_prefix cfg r
  simp only [frameRecord, crcField_packFrame]
  rw [low 0 (by decide), low 1 (by decide), le32_congr 2 (by decide) fun a _ ha => low a (by omega),
    le32_congr 6 (by decide) fun a _ ha => low a (by omega), le16_congr 10 (by decide) fun a _ ha => low a (by omega),
    h0, h1, h2, h3, h4]

/-- Packing the fields of a frame gives back its first twelve bytes (30_encoding.md R71). -/
theorem packPrefix_frameRecord_read (m : Memory) (a : FrameAddr) (h : a.val < 12) :
    (packPrefix { sof := (frameRecord m).sof, fire := (frameRecord m).fire, pitch := (frameRecord m).pitch,
                  yaw := (frameRecord m).yaw, rsvd := (frameRecord m).rsvd }).read a = m.read a := by
  obtain ⟨p0, p1, p2, p3⟩ := le32_bytes m 2 (by decide)
  obtain ⟨y0, y1, y2, y3⟩ := le32_bytes m 6 (by decide)
  obtain ⟨r0, r1⟩ := le16_bytes m 10 (by decide)
  rw [packPrefix_read]
  simp only [frameRecord, p0, p1, p2, p3, y0, y1, y2, y3, r0, r1]
  obtain ⟨a, ha⟩ := a
  simp only at h
  interval_cases a <;> simp

/-- UNPACK_FN returns a record exactly for a frame with the right sentinel and CRC, and then all its fields
(41_frame_codec.md R123, R125). -/
theorem unpackFn_eq_some {cfg : Config} {m : Memory} {r : InRec} :
    unpackFn cfg m = some r ↔ m.read 0 = cfg.rxSof ∧ crcOf cfg m = crcField m ∧ frameRecord m = r := by
  by_cases h : (sentinelMatches cfg m && frameValid cfg m) = true
  · have hs : m.read 0 = cfg.rxSof ∧ crcOf cfg m = crcField m := by simpa [sentinelMatches, frameValid] using h
    simp only [unpackFn, h, if_true, hs, true_and, Option.some.injEq]
  · have hs : ¬(m.read 0 = cfg.rxSof ∧ crcOf cfg m = crcField m) := by simpa [sentinelMatches, frameValid] using h
    simp only [unpackFn, h, if_false, reduceCtorEq, false_iff, Bool.false_eq_true]
    exact fun hr => hs ⟨hr.1, hr.2.1⟩

theorem unpackFn_eq_none {cfg : Config} {m : Memory} :
    unpackFn cfg m = none ↔ m.read 0 ≠ cfg.rxSof ∨ crcOf cfg m ≠ crcField m := by
  by_cases h : (sentinelMatches cfg m && frameValid cfg m) = true
  · have hs : m.read 0 = cfg.rxSof ∧ crcOf cfg m = crcField m := by simpa [sentinelMatches, frameValid] using h
    simp only [unpackFn, h, if_true, hs, reduceCtorEq, ne_eq, not_true_eq_false, or_self]
  · have hs : ¬(m.read 0 = cfg.rxSof ∧ crcOf cfg m = crcField m) := by simpa [sentinelMatches, frameValid] using h
    simp only [unpackFn, h, true_iff, Bool.false_eq_true, if_false]
    exact not_and_or.mp hs

/-- The check of a frame emits no TxSend. -/
theorem unpackEvents_sent (cfg : Config) (m : Memory) : (unpackEvents cfg m).filterMap Event.sent = [] := by
  unfold unpackEvents; split <;> rfl

/-- The check of a frame raises no error (60_exceptions.md R221). -/
theorem unpackEvents_error (cfg : Config) (m : Memory) : (unpackEvents cfg m).filterMap Event.error = [] := by
  unfold unpackEvents; split <;> rfl

end Sys2Proof.Machine
end

