-- ==== Sys2Proof/Laws/State.lean ====
section
/-! SUPPORT. One lemma per field per update, each true by unfolding, so that no later proof unfolds a record update. -/

namespace Sys2Proof.Machine

/-! ### The flags (10_state.md R24) -/

@[simp] theorem Status.afterInit_initDone (f : Status) : (f.afterInit).initDone = true := rfl
@[simp] theorem Status.afterInit_inrecValid (f : Status) : (f.afterInit).inrecValid = f.inrecValid := rfl
@[simp] theorem Status.afterInit_stale (f : Status) : (f.afterInit).stale = false := rfl
@[simp] theorem Status.afterInit_txBusy (f : Status) : (f.afterInit).txBusy = f.txBusy := rfl
@[simp] theorem Status.afterInit_rxPending (f : Status) : (f.afterInit).rxPending = f.rxPending := rfl
@[simp] theorem Status.afterInit_validResult (f : Status) : (f.afterInit).validResult = f.validResult := rfl
@[simp] theorem Status.afterInit_err (f : Status) : (f.afterInit).err = f.err := rfl

@[simp] theorem Status.afterDecodeSuccess_initDone (f : Status) : (f.afterDecodeSuccess).initDone = f.initDone := rfl
@[simp] theorem Status.afterDecodeSuccess_inrecValid (f : Status) : (f.afterDecodeSuccess).inrecValid = true := rfl
@[simp] theorem Status.afterDecodeSuccess_stale (f : Status) : (f.afterDecodeSuccess).stale = false := rfl
@[simp] theorem Status.afterDecodeSuccess_txBusy (f : Status) : (f.afterDecodeSuccess).txBusy = f.txBusy := rfl
@[simp] theorem Status.afterDecodeSuccess_rxPending (f : Status) : 
    (f.afterDecodeSuccess).rxPending = f.rxPending := rfl
@[simp] theorem Status.afterDecodeSuccess_validResult (f : Status) : 
    (f.afterDecodeSuccess).validResult = f.validResult := rfl
@[simp] theorem Status.afterDecodeSuccess_err (f : Status) : (f.afterDecodeSuccess).err = f.err := rfl

@[simp] theorem Status.setStale_initDone (f : Status) : (f.setStale).initDone = f.initDone := rfl
@[simp] theorem Status.setStale_inrecValid (f : Status) : (f.setStale).inrecValid = f.inrecValid := rfl
@[simp] theorem Status.setStale_stale (f : Status) : (f.setStale).stale = true := rfl
@[simp] theorem Status.setStale_txBusy (f : Status) : (f.setStale).txBusy = f.txBusy := rfl
@[simp] theorem Status.setStale_rxPending (f : Status) : (f.setStale).rxPending = f.rxPending := rfl
@[simp] theorem Status.setStale_validResult (f : Status) : (f.setStale).validResult = f.validResult := rfl
@[simp] theorem Status.setStale_err (f : Status) : (f.setStale).err = f.err := rfl

@[simp] theorem Status.setTxBusy_initDone (f : Status) (v : Bool) : (f.setTxBusy v).initDone = f.initDone := rfl
@[simp] theorem Status.setTxBusy_inrecValid (f : Status) (v : Bool) : (f.setTxBusy v).inrecValid = f.inrecValid := rfl
@[simp] theorem Status.setTxBusy_stale (f : Status) (v : Bool) : (f.setTxBusy v).stale = f.stale := rfl
@[simp] theorem Status.setTxBusy_txBusy (f : Status) (v : Bool) : (f.setTxBusy v).txBusy = v := rfl
@[simp] theorem Status.setTxBusy_rxPending (f : Status) (v : Bool) : (f.setTxBusy v).rxPending = f.rxPending := rfl
@[simp] theorem Status.setTxBusy_validResult (f : Status) (v : Bool) : 
    (f.setTxBusy v).validResult = f.validResult := rfl
@[simp] theorem Status.setTxBusy_err (f : Status) (v : Bool) : (f.setTxBusy v).err = f.err := rfl

@[simp] theorem Status.setRxPending_initDone (f : Status) (v : Bool) : (f.setRxPending v).initDone = f.initDone := rfl
@[simp] theorem Status.setRxPending_inrecValid (f : Status) (v : Bool) : 
    (f.setRxPending v).inrecValid = f.inrecValid := rfl
@[simp] theorem Status.setRxPending_stale (f : Status) (v : Bool) : (f.setRxPending v).stale = f.stale := rfl
@[simp] theorem Status.setRxPending_txBusy (f : Status) (v : Bool) : (f.setRxPending v).txBusy = f.txBusy := rfl
@[simp] theorem Status.setRxPending_rxPending (f : Status) (v : Bool) : (f.setRxPending v).rxPending = v := rfl
@[simp] theorem Status.setRxPending_validResult (f : Status) (v : Bool) : 
    (f.setRxPending v).validResult = f.validResult := rfl
@[simp] theorem Status.setRxPending_err (f : Status) (v : Bool) : (f.setRxPending v).err = f.err := rfl

@[simp] theorem Status.setValidResult_initDone (f : Status) (v : Bool) : 
    (f.setValidResult v).initDone = f.initDone := rfl
@[simp] theorem Status.setValidResult_inrecValid (f : Status) (v : Bool) : 
    (f.setValidResult v).inrecValid = f.inrecValid := rfl
@[simp] theorem Status.setValidResult_stale (f : Status) (v : Bool) : (f.setValidResult v).stale = f.stale := rfl
@[simp] theorem Status.setValidResult_txBusy (f : Status) (v : Bool) : (f.setValidResult v).txBusy = f.txBusy := rfl
@[simp] theorem Status.setValidResult_rxPending (f : Status) (v : Bool) : 
    (f.setValidResult v).rxPending = f.rxPending := rfl
@[simp] theorem Status.setValidResult_validResult (f : Status) (v : Bool) : (f.setValidResult v).validResult = v := rfl
@[simp] theorem Status.setValidResult_err (f : Status) (v : Bool) : (f.setValidResult v).err = f.err := rfl

@[simp] theorem Status.setErr_initDone (f : Status) : (f.setErr).initDone = f.initDone := rfl
@[simp] theorem Status.setErr_inrecValid (f : Status) : (f.setErr).inrecValid = f.inrecValid := rfl
@[simp] theorem Status.setErr_stale (f : Status) : (f.setErr).stale = f.stale := rfl
@[simp] theorem Status.setErr_txBusy (f : Status) : (f.setErr).txBusy = f.txBusy := rfl
@[simp] theorem Status.setErr_rxPending (f : Status) : (f.setErr).rxPending = f.rxPending := rfl
@[simp] theorem Status.setErr_validResult (f : Status) : (f.setErr).validResult = f.validResult := rfl
@[simp] theorem Status.setErr_err (f : Status) : (f.setErr).err = true := rfl

@[simp] theorem Status.clearErr_initDone (f : Status) : (f.clearErr).initDone = f.initDone := rfl
@[simp] theorem Status.clearErr_inrecValid (f : Status) : (f.clearErr).inrecValid = f.inrecValid := rfl
@[simp] theorem Status.clearErr_stale (f : Status) : (f.clearErr).stale = f.stale := rfl
@[simp] theorem Status.clearErr_txBusy (f : Status) : (f.clearErr).txBusy = f.txBusy := rfl
@[simp] theorem Status.clearErr_rxPending (f : Status) : (f.clearErr).rxPending = f.rxPending := rfl
@[simp] theorem Status.clearErr_validResult (f : Status) : (f.clearErr).validResult = f.validResult := rfl
@[simp] theorem Status.clearErr_err (f : Status) : (f.clearErr).err = false := rfl

/-! ### The state -/

@[simp] theorem State.emit_rxHold (e : Event) (s : State) : (s.emit e).rxHold = s.rxHold := rfl
@[simp] theorem State.emit_status (e : Event) (s : State) : (s.emit e).status = s.status := rfl
@[simp] theorem State.emit_errcode (e : Event) (s : State) : (s.emit e).errcode = s.errcode := rfl
@[simp] theorem State.emit_threshold (e : Event) (s : State) : (s.emit e).threshold = s.threshold := rfl
@[simp] theorem State.emit_linkCnt (e : Event) (s : State) : (s.emit e).linkCnt = s.linkCnt := rfl
@[simp] theorem State.emit_linkThr (e : Event) (s : State) : (s.emit e).linkThr = s.linkThr := rfl
@[simp] theorem State.emit_inrec (e : Event) (s : State) : (s.emit e).inrec = s.inrec := rfl
@[simp] theorem State.emit_outrec (e : Event) (s : State) : (s.emit e).outrec = s.outrec := rfl
@[simp] theorem State.emit_outrecCrc (e : Event) (s : State) : (s.emit e).outrecCrc = s.outrecCrc := rfl
@[simp] theorem State.emit_txbuf (e : Event) (s : State) : (s.emit e).txbuf = s.txbuf := rfl
@[simp] theorem State.emit_rxbuf (e : Event) (s : State) : (s.emit e).rxbuf = s.rxbuf := rfl
@[simp] theorem State.emit_hist (e : Event) (s : State) : (s.emit e).hist = s.hist ++ [e] := rfl
@[simp] theorem State.emit_faults (e : Event) (s : State) : (s.emit e).faults = s.faults := rfl
@[simp] theorem State.emit_schedule (e : Event) (s : State) : (s.emit e).schedule = s.schedule := rfl
@[simp] theorem State.emit_readLog (e : Event) (s : State) : (s.emit e).readLog = s.readLog := rfl

@[simp] theorem State.raiseError_rxHold (c : ErrCode) (s : State) : (s.raiseError c).rxHold = s.rxHold := rfl
@[simp] theorem State.raiseError_status (c : ErrCode) (s : State) : (s.raiseError c).status = s.status.setErr := rfl
@[simp] theorem State.raiseError_errcode (c : ErrCode) (s : State) : 
    (s.raiseError c).errcode = latchFirst s.errcode c := rfl
@[simp] theorem State.raiseError_threshold (c : ErrCode) (s : State) : (s.raiseError c).threshold = s.threshold := rfl
@[simp] theorem State.raiseError_linkCnt (c : ErrCode) (s : State) : (s.raiseError c).linkCnt = s.linkCnt := rfl
@[simp] theorem State.raiseError_linkThr (c : ErrCode) (s : State) : (s.raiseError c).linkThr = s.linkThr := rfl
@[simp] theorem State.raiseError_inrec (c : ErrCode) (s : State) : (s.raiseError c).inrec = s.inrec := rfl
@[simp] theorem State.raiseError_outrec (c : ErrCode) (s : State) : (s.raiseError c).outrec = s.outrec := rfl
@[simp] theorem State.raiseError_outrecCrc (c : ErrCode) (s : State) : (s.raiseError c).outrecCrc = s.outrecCrc := rfl
@[simp] theorem State.raiseError_txbuf (c : ErrCode) (s : State) : (s.raiseError c).txbuf = s.txbuf := rfl
@[simp] theorem State.raiseError_rxbuf (c : ErrCode) (s : State) : (s.raiseError c).rxbuf = s.rxbuf := rfl
@[simp] theorem State.raiseError_hist (c : ErrCode) (s : State) : 
    (s.raiseError c).hist = s.hist ++ [.errorRaised c] := rfl
@[simp] theorem State.raiseError_faults (c : ErrCode) (s : State) : (s.raiseError c).faults = s.faults ++ [c] := rfl
@[simp] theorem State.raiseError_schedule (c : ErrCode) (s : State) : (s.raiseError c).schedule = s.schedule := rfl
@[simp] theorem State.raiseError_readLog (c : ErrCode) (s : State) : (s.raiseError c).readLog = s.readLog := rfl

@[simp] theorem State.clearError_rxHold (s : State) : s.clearError.rxHold = s.rxHold := rfl
@[simp] theorem State.clearError_status (s : State) : s.clearError.status = s.status.clearErr := rfl
@[simp] theorem State.clearError_errcode (s : State) : s.clearError.errcode = 0 := rfl
@[simp] theorem State.clearError_threshold (s : State) : s.clearError.threshold = s.threshold := rfl
@[simp] theorem State.clearError_linkCnt (s : State) : s.clearError.linkCnt = s.linkCnt := rfl
@[simp] theorem State.clearError_linkThr (s : State) : s.clearError.linkThr = s.linkThr := rfl
@[simp] theorem State.clearError_inrec (s : State) : s.clearError.inrec = s.inrec := rfl
@[simp] theorem State.clearError_outrec (s : State) : s.clearError.outrec = s.outrec := rfl
@[simp] theorem State.clearError_outrecCrc (s : State) : s.clearError.outrecCrc = s.outrecCrc := rfl
@[simp] theorem State.clearError_txbuf (s : State) : s.clearError.txbuf = s.txbuf := rfl
@[simp] theorem State.clearError_rxbuf (s : State) : s.clearError.rxbuf = s.rxbuf := rfl
@[simp] theorem State.clearError_hist (s : State) : s.clearError.hist = s.hist := rfl
@[simp] theorem State.clearError_faults (s : State) : s.clearError.faults = s.faults := rfl
@[simp] theorem State.clearError_schedule (s : State) : s.clearError.schedule = s.schedule := rfl
@[simp] theorem State.clearError_readLog (s : State) : s.clearError.readLog = s.readLog := rfl

@[simp] theorem State.answer_rxHold (v : Word) (s : State) : (s.answer v).rxHold = s.rxHold := rfl
@[simp] theorem State.answer_status (v : Word) (s : State) : (s.answer v).status = s.status := rfl
@[simp] theorem State.answer_errcode (v : Word) (s : State) : (s.answer v).errcode = s.errcode := rfl
@[simp] theorem State.answer_threshold (v : Word) (s : State) : (s.answer v).threshold = s.threshold := rfl
@[simp] theorem State.answer_linkCnt (v : Word) (s : State) : (s.answer v).linkCnt = s.linkCnt := rfl
@[simp] theorem State.answer_linkThr (v : Word) (s : State) : (s.answer v).linkThr = s.linkThr := rfl
@[simp] theorem State.answer_inrec (v : Word) (s : State) : (s.answer v).inrec = s.inrec := rfl
@[simp] theorem State.answer_outrec (v : Word) (s : State) : (s.answer v).outrec = s.outrec := rfl
@[simp] theorem State.answer_outrecCrc (v : Word) (s : State) : (s.answer v).outrecCrc = s.outrecCrc := rfl
@[simp] theorem State.answer_txbuf (v : Word) (s : State) : (s.answer v).txbuf = s.txbuf := rfl
@[simp] theorem State.answer_rxbuf (v : Word) (s : State) : (s.answer v).rxbuf = s.rxbuf := rfl
@[simp] theorem State.answer_hist (v : Word) (s : State) : (s.answer v).hist = s.hist := rfl
@[simp] theorem State.answer_faults (v : Word) (s : State) : (s.answer v).faults = s.faults := rfl
@[simp] theorem State.answer_schedule (v : Word) (s : State) : (s.answer v).schedule = s.schedule := rfl
@[simp] theorem State.answer_readLog (v : Word) (s : State) : (s.answer v).readLog = s.readLog ++ [v] := rfl

@[simp] theorem reload_rxHold (s : State) : (reload s).rxHold = s.rxHold := rfl
@[simp] theorem reload_status (s : State) : (reload s).status = s.status := rfl
@[simp] theorem reload_errcode (s : State) : (reload s).errcode = s.errcode := rfl
@[simp] theorem reload_threshold (s : State) : (reload s).threshold = s.threshold := rfl
@[simp] theorem reload_linkCnt (s : State) : (reload s).linkCnt = s.linkThr := rfl
@[simp] theorem reload_linkThr (s : State) : (reload s).linkThr = s.linkThr := rfl
@[simp] theorem reload_inrec (s : State) : (reload s).inrec = s.inrec := rfl
@[simp] theorem reload_outrec (s : State) : (reload s).outrec = s.outrec := rfl
@[simp] theorem reload_outrecCrc (s : State) : (reload s).outrecCrc = s.outrecCrc := rfl
@[simp] theorem reload_txbuf (s : State) : (reload s).txbuf = s.txbuf := rfl
@[simp] theorem reload_rxbuf (s : State) : (reload s).rxbuf = s.rxbuf := rfl
@[simp] theorem reload_hist (s : State) : (reload s).hist = s.hist := rfl
@[simp] theorem reload_faults (s : State) : (reload s).faults = s.faults := rfl
@[simp] theorem reload_schedule (s : State) : (reload s).schedule = s.schedule := rfl
@[simp] theorem reload_readLog (s : State) : (reload s).readLog = s.readLog := rfl

@[simp] theorem countDown_rxHold (s : State) : (countDown s).rxHold = s.rxHold := rfl
@[simp] theorem countDown_status (s : State) : (countDown s).status = s.status := rfl
@[simp] theorem countDown_errcode (s : State) : (countDown s).errcode = s.errcode := rfl
@[simp] theorem countDown_threshold (s : State) : (countDown s).threshold = s.threshold := rfl
@[simp] theorem countDown_linkCnt (s : State) : (countDown s).linkCnt = s.linkCnt - 1 := rfl
@[simp] theorem countDown_linkThr (s : State) : (countDown s).linkThr = s.linkThr := rfl
@[simp] theorem countDown_inrec (s : State) : (countDown s).inrec = s.inrec := rfl
@[simp] theorem countDown_outrec (s : State) : (countDown s).outrec = s.outrec := rfl
@[simp] theorem countDown_outrecCrc (s : State) : (countDown s).outrecCrc = s.outrecCrc := rfl
@[simp] theorem countDown_txbuf (s : State) : (countDown s).txbuf = s.txbuf := rfl
@[simp] theorem countDown_rxbuf (s : State) : (countDown s).rxbuf = s.rxbuf := rfl
@[simp] theorem countDown_hist (s : State) : (countDown s).hist = s.hist := rfl
@[simp] theorem countDown_faults (s : State) : (countDown s).faults = s.faults := rfl
@[simp] theorem countDown_schedule (s : State) : (countDown s).schedule = s.schedule := rfl
@[simp] theorem countDown_readLog (s : State) : (countDown s).readLog = s.readLog := rfl

@[simp] theorem expire_rxHold (s : State) : (expire s).rxHold = s.rxHold := rfl
@[simp] theorem expire_status (s : State) : (expire s).status = s.status.setStale := rfl
@[simp] theorem expire_errcode (s : State) : (expire s).errcode = s.errcode := rfl
@[simp] theorem expire_threshold (s : State) : (expire s).threshold = s.threshold := rfl
@[simp] theorem expire_linkCnt (s : State) : (expire s).linkCnt = s.linkThr := rfl
@[simp] theorem expire_linkThr (s : State) : (expire s).linkThr = s.linkThr := rfl
@[simp] theorem expire_inrec (s : State) : (expire s).inrec = s.inrec := rfl
@[simp] theorem expire_outrec (s : State) : (expire s).outrec = s.outrec := rfl
@[simp] theorem expire_outrecCrc (s : State) : (expire s).outrecCrc = s.outrecCrc := rfl
@[simp] theorem expire_txbuf (s : State) : (expire s).txbuf = s.txbuf := rfl
@[simp] theorem expire_rxbuf (s : State) : (expire s).rxbuf = s.rxbuf := rfl
@[simp] theorem expire_hist (s : State) : (expire s).hist = s.hist ++ [.reinitReq] ++ [.diag .linkOffline] := rfl
@[simp] theorem expire_faults (s : State) : (expire s).faults = s.faults := rfl
@[simp] theorem expire_schedule (s : State) : (expire s).schedule = s.schedule := rfl
@[simp] theorem expire_readLog (s : State) : (expire s).readLog = s.readLog := rfl

@[simp] theorem validateUnder_rxHold (cfg : Config) (s : State) : (validateUnder cfg s).rxHold = s.rxHold := rfl
@[simp] theorem validateUnder_status (cfg : Config) (s : State) : 
    (validateUnder cfg s).status = s.status.setValidResult (frameValid cfg s.rxbuf) := rfl
@[simp] theorem validateUnder_errcode (cfg : Config) (s : State) : (validateUnder cfg s).errcode = s.errcode := rfl
@[simp] theorem validateUnder_threshold (cfg : Config) (s : State) : 
    (validateUnder cfg s).threshold = s.threshold := rfl
@[simp] theorem validateUnder_linkCnt (cfg : Config) (s : State) : (validateUnder cfg s).linkCnt = s.linkCnt := rfl
@[simp] theorem validateUnder_linkThr (cfg : Config) (s : State) : (validateUnder cfg s).linkThr = s.linkThr := rfl
@[simp] theorem validateUnder_inrec (cfg : Config) (s : State) : (validateUnder cfg s).inrec = s.inrec := rfl
@[simp] theorem validateUnder_outrec (cfg : Config) (s : State) : (validateUnder cfg s).outrec = s.outrec := rfl
@[simp] theorem validateUnder_outrecCrc (cfg : Config) (s : State) : 
    (validateUnder cfg s).outrecCrc = s.outrecCrc := rfl
@[simp] theorem validateUnder_txbuf (cfg : Config) (s : State) : (validateUnder cfg s).txbuf = s.txbuf := rfl
@[simp] theorem validateUnder_rxbuf (cfg : Config) (s : State) : (validateUnder cfg s).rxbuf = s.rxbuf := rfl
@[simp] theorem validateUnder_hist (cfg : Config) (s : State) : 
    (validateUnder cfg s).hist = s.hist ++ [crcCallOf cfg s.rxbuf] := rfl
@[simp] theorem validateUnder_faults (cfg : Config) (s : State) : (validateUnder cfg s).faults = s.faults := rfl
@[simp] theorem validateUnder_schedule (cfg : Config) (s : State) : (validateUnder cfg s).schedule = s.schedule := rfl
@[simp] theorem validateUnder_readLog (cfg : Config) (s : State) : (validateUnder cfg s).readLog = s.readLog := rfl

@[simp] theorem packFn_rxHold (cfg : Config) (s : State) : (packFn cfg s).rxHold = s.rxHold := rfl
@[simp] theorem packFn_status (cfg : Config) (s : State) : (packFn cfg s).status = s.status := rfl
@[simp] theorem packFn_errcode (cfg : Config) (s : State) : (packFn cfg s).errcode = s.errcode := rfl
@[simp] theorem packFn_threshold (cfg : Config) (s : State) : (packFn cfg s).threshold = s.threshold := rfl
@[simp] theorem packFn_linkCnt (cfg : Config) (s : State) : (packFn cfg s).linkCnt = s.linkCnt := rfl
@[simp] theorem packFn_linkThr (cfg : Config) (s : State) : (packFn cfg s).linkThr = s.linkThr := rfl
@[simp] theorem packFn_inrec (cfg : Config) (s : State) : (packFn cfg s).inrec = s.inrec := rfl
@[simp] theorem packFn_outrec (cfg : Config) (s : State) : (packFn cfg s).outrec = s.outrec := rfl
@[simp] theorem packFn_outrecCrc (cfg : Config) (s : State) : 
    (packFn cfg s).outrecCrc = crcOf cfg (packPrefix s.outrec) := by
  simp only [packFn, State.emit]
@[simp] theorem packFn_txbuf (cfg : Config) (s : State) : (packFn cfg s).txbuf = packFrame cfg s.outrec := by
  simp only [packFn, State.emit]
@[simp] theorem packFn_rxbuf (cfg : Config) (s : State) : (packFn cfg s).rxbuf = s.rxbuf := rfl
@[simp] theorem packFn_hist (cfg : Config) (s : State) : 
    (packFn cfg s).hist = s.hist ++ [crcCallOf cfg (packPrefix s.outrec)] := by
  simp only [packFn, State.emit]
@[simp] theorem packFn_faults (cfg : Config) (s : State) : (packFn cfg s).faults = s.faults := rfl
@[simp] theorem packFn_schedule (cfg : Config) (s : State) : (packFn cfg s).schedule = s.schedule := rfl
@[simp] theorem packFn_readLog (cfg : Config) (s : State) : (packFn cfg s).readLog = s.readLog := rfl

@[simp] theorem transmit_rxHold (cfg : Config) (s : State) : (transmit cfg s).rxHold = s.rxHold := rfl
@[simp] theorem transmit_status (cfg : Config) (s : State) : (transmit cfg s).status = s.status.setTxBusy true := rfl
@[simp] theorem transmit_errcode (cfg : Config) (s : State) : (transmit cfg s).errcode = s.errcode := rfl
@[simp] theorem transmit_threshold (cfg : Config) (s : State) : (transmit cfg s).threshold = s.threshold := rfl
@[simp] theorem transmit_linkCnt (cfg : Config) (s : State) : (transmit cfg s).linkCnt = s.linkCnt := rfl
@[simp] theorem transmit_linkThr (cfg : Config) (s : State) : (transmit cfg s).linkThr = s.linkThr := rfl
@[simp] theorem transmit_inrec (cfg : Config) (s : State) : (transmit cfg s).inrec = s.inrec := rfl
@[simp] theorem transmit_outrec (cfg : Config) (s : State) : (transmit cfg s).outrec = s.outrec := rfl
@[simp] theorem transmit_outrecCrc (cfg : Config) (s : State) : 
    (transmit cfg s).outrecCrc = crcOf cfg (packPrefix s.outrec) := by
  simp only [transmit, packFn, State.emit]
@[simp] theorem transmit_txbuf (cfg : Config) (s : State) : (transmit cfg s).txbuf = packFrame cfg s.outrec := by
  simp only [transmit, packFn, State.emit]
@[simp] theorem transmit_rxbuf (cfg : Config) (s : State) : (transmit cfg s).rxbuf = s.rxbuf := rfl
@[simp] theorem transmit_hist (cfg : Config) (s : State) : 
    (transmit cfg s).hist =
      s.hist ++ [crcCallOf cfg (packPrefix s.outrec)] ++ [.txSend (packFrame cfg s.outrec).bytes] := by
  simp only [transmit, packFn, State.emit]
@[simp] theorem transmit_faults (cfg : Config) (s : State) : (transmit cfg s).faults = s.faults := rfl
@[simp] theorem transmit_schedule (cfg : Config) (s : State) : (transmit cfg s).schedule = s.schedule := rfl
@[simp] theorem transmit_readLog (cfg : Config) (s : State) : (transmit cfg s).readLog = s.readLog := rfl

@[simp] theorem acceptRecord_rxHold (r : InRec) (s : State) : (acceptRecord r s).rxHold = s.rxHold := rfl
@[simp] theorem acceptRecord_status (r : InRec) (s : State) : 
    (acceptRecord r s).status = s.status.afterDecodeSuccess := rfl
@[simp] theorem acceptRecord_errcode (r : InRec) (s : State) : (acceptRecord r s).errcode = s.errcode := rfl
@[simp] theorem acceptRecord_threshold (r : InRec) (s : State) : (acceptRecord r s).threshold = s.threshold := rfl
@[simp] theorem acceptRecord_linkCnt (r : InRec) (s : State) : (acceptRecord r s).linkCnt = s.linkThr := rfl
@[simp] theorem acceptRecord_linkThr (r : InRec) (s : State) : (acceptRecord r s).linkThr = s.linkThr := rfl
@[simp] theorem acceptRecord_inrec (r : InRec) (s : State) : (acceptRecord r s).inrec = r := rfl
@[simp] theorem acceptRecord_outrec (r : InRec) (s : State) : (acceptRecord r s).outrec = s.outrec := rfl
@[simp] theorem acceptRecord_outrecCrc (r : InRec) (s : State) : (acceptRecord r s).outrecCrc = s.outrecCrc := rfl
@[simp] theorem acceptRecord_txbuf (r : InRec) (s : State) : (acceptRecord r s).txbuf = s.txbuf := rfl
@[simp] theorem acceptRecord_rxbuf (r : InRec) (s : State) : (acceptRecord r s).rxbuf = s.rxbuf := rfl
@[simp] theorem acceptRecord_hist (r : InRec) (s : State) : (acceptRecord r s).hist = s.hist := rfl
@[simp] theorem acceptRecord_faults (r : InRec) (s : State) : (acceptRecord r s).faults = s.faults := rfl
@[simp] theorem acceptRecord_schedule (r : InRec) (s : State) : (acceptRecord r s).schedule = s.schedule := rfl
@[simp] theorem acceptRecord_readLog (r : InRec) (s : State) : (acceptRecord r s).readLog = s.readLog := rfl

@[simp] theorem takePending_rxHold (cfg : Config) (s : State) : (takePending cfg s).rxHold = s.rxHold := rfl
@[simp] theorem takePending_status (cfg : Config) (s : State) : 
    (takePending cfg s).status = s.status.setRxPending false := rfl
@[simp] theorem takePending_errcode (cfg : Config) (s : State) : (takePending cfg s).errcode = s.errcode := rfl
@[simp] theorem takePending_threshold (cfg : Config) (s : State) : (takePending cfg s).threshold = s.threshold := rfl
@[simp] theorem takePending_linkCnt (cfg : Config) (s : State) : (takePending cfg s).linkCnt = s.linkCnt := rfl
@[simp] theorem takePending_linkThr (cfg : Config) (s : State) : (takePending cfg s).linkThr = s.linkThr := rfl
@[simp] theorem takePending_inrec (cfg : Config) (s : State) : (takePending cfg s).inrec = s.inrec := rfl
@[simp] theorem takePending_outrec (cfg : Config) (s : State) : (takePending cfg s).outrec = s.outrec := rfl
@[simp] theorem takePending_outrecCrc (cfg : Config) (s : State) : (takePending cfg s).outrecCrc = s.outrecCrc := rfl
@[simp] theorem takePending_txbuf (cfg : Config) (s : State) : (takePending cfg s).txbuf = s.txbuf := rfl
@[simp] theorem takePending_rxbuf (cfg : Config) (s : State) : (takePending cfg s).rxbuf = s.rxbuf := rfl
@[simp] theorem takePending_hist (cfg : Config) (s : State) : 
    (takePending cfg s).hist = s.hist ++ unpackEvents cfg s.rxbuf := rfl
@[simp] theorem takePending_faults (cfg : Config) (s : State) : (takePending cfg s).faults = s.faults := rfl
@[simp] theorem takePending_schedule (cfg : Config) (s : State) : (takePending cfg s).schedule = s.schedule := rfl
@[simp] theorem takePending_readLog (cfg : Config) (s : State) : (takePending cfg s).readLog = s.readLog := rfl

@[simp] theorem resetUnder_rxHold (cfg : Config) (s : State) : (resetUnder cfg s).rxHold = false := rfl
@[simp] theorem resetUnder_status (cfg : Config) (s : State) : (resetUnder cfg s).status = Status.reset := rfl
@[simp] theorem resetUnder_errcode (cfg : Config) (s : State) : (resetUnder cfg s).errcode = 0 := rfl
@[simp] theorem resetUnder_threshold (cfg : Config) (s : State) : (resetUnder cfg s).threshold = 10 := rfl
@[simp] theorem resetUnder_linkCnt (cfg : Config) (s : State) : (resetUnder cfg s).linkCnt = 0 := rfl
@[simp] theorem resetUnder_linkThr (cfg : Config) (s : State) : (resetUnder cfg s).linkThr = 0 := rfl
@[simp] theorem resetUnder_inrec (cfg : Config) (s : State) : (resetUnder cfg s).inrec = InRec.reset := rfl
@[simp] theorem resetUnder_outrec (cfg : Config) (s : State) : (resetUnder cfg s).outrec = OutRec.reset cfg := rfl
@[simp] theorem resetUnder_outrecCrc (cfg : Config) (s : State) : (resetUnder cfg s).outrecCrc = 0 := rfl
@[simp] theorem resetUnder_txbuf (cfg : Config) (s : State) : (resetUnder cfg s).txbuf = [] := rfl
@[simp] theorem resetUnder_rxbuf (cfg : Config) (s : State) : (resetUnder cfg s).rxbuf = [] := rfl
@[simp] theorem resetUnder_hist (cfg : Config) (s : State) : (resetUnder cfg s).hist = s.hist := rfl
@[simp] theorem resetUnder_faults (cfg : Config) (s : State) : (resetUnder cfg s).faults = s.faults := rfl
@[simp] theorem resetUnder_schedule (cfg : Config) (s : State) : (resetUnder cfg s).schedule = s.schedule := rfl
@[simp] theorem resetUnder_readLog (cfg : Config) (s : State) : (resetUnder cfg s).readLog = s.readLog := rfl

end Sys2Proof.Machine
end

