-- ==== Sys2Proof/Laws/Exec.lean ====
section
/-! SUPPORT. What each meaning and one step can do, said once: every outcome, with the condition it happens under. Later
proofs cite these instead of unfolding a meaning. -/

namespace Sys2Proof.Machine

/-! ### The state functions of the meanings -/

theorem initState_cases (s : State) :
    (s.status.initDone = true ∧ initState s = s.raiseError .alreadyInit) ∨
    (s.status.initDone = false ∧ s.threshold = 0 ∧ initState s = s.raiseError .badThreshold) ∨
    (s.status.initDone = false ∧ s.threshold ≠ 0 ∧
      initState s = { s with linkThr := s.threshold, linkCnt := s.threshold, status := s.status.afterInit }) := by
  unfold initState
  split
  · next h => exact .inl ⟨h, rfl⟩
  · next h =>
    have h := Bool.eq_false_iff.mpr h
    split
    · next h0 => exact .inr (.inl ⟨h, h0, rfl⟩)
    · next h0 => exact .inr (.inr ⟨h, h0, rfl⟩)

theorem packUnder_cases (cfg : Config) (s : State) :
    (s.status.txBusy = true ∧ packUnder cfg s = s.raiseError .txOverrun) ∨
    (s.status.txBusy = false ∧ packUnder cfg s = packFn cfg s) := by
  unfold packUnder
  split
  · next h => exact .inl ⟨h, rfl⟩
  · next h => exact .inr ⟨Bool.eq_false_iff.mpr h, rfl⟩

theorem sendUnder_cases (cfg : Config) (s : State) :
    (s.status.initDone = false ∧ sendUnder cfg s = s.raiseError .notInit) ∨
    (s.status.initDone = true ∧ s.status.txBusy = true ∧ sendUnder cfg s = s.raiseError .txOverrun) ∨
    (s.status.initDone = true ∧ s.status.txBusy = false ∧ sendUnder cfg s = transmit cfg s) := by
  unfold sendUnder
  split
  · next h =>
    split
    · next hb => exact .inr (.inl ⟨h, hb, rfl⟩)
    · next hb => exact .inr (.inr ⟨h, Bool.eq_false_iff.mpr hb, rfl⟩)
  · next h => exact .inl ⟨Bool.eq_false_iff.mpr h, rfl⟩

theorem decodeEnabled_iff (s : State) :
    decodeEnabled s = true ↔ s.status.initDone = true ∧ s.status.rxPending = true ∧ s.rxHold = false := by
  simp [decodeEnabled, and_assoc]

theorem decodeUnder_cases (cfg : Config) (s : State) :
    (decodeEnabled s = false ∧ decodeUnder cfg s = s) ∨
    (decodeEnabled s = true ∧ ∃ r, unpackFn cfg s.rxbuf = some r ∧
      decodeUnder cfg s = acceptRecord r (takePending cfg s)) ∨
    (decodeEnabled s = true ∧ unpackFn cfg s.rxbuf = none ∧ decodeUnder cfg s = takePending cfg s) := by
  unfold decodeUnder
  split
  · next h =>
    unfold decodePending
    split
    · next r hr => exact .inr (.inl ⟨h, r, hr, rfl⟩)
    · next hr => exact .inr (.inr ⟨h, hr, rfl⟩)
  · next h => exact .inl ⟨Bool.eq_false_iff.mpr h, rfl⟩

theorem tickState_cases (s : State) :
    (s.status.initDone = false ∧ tickState s = s) ∨
    (s.status.initDone = true ∧ s.linkCnt - 1 = 0 ∧ tickState s = expire (countDown s)) ∨
    (s.status.initDone = true ∧ s.linkCnt - 1 ≠ 0 ∧ tickState s = countDown s) := by
  unfold tickState
  split
  · next h =>
    split
    · next h0 => exact .inr (.inl ⟨h, h0, rfl⟩)
    · next h0 => exact .inr (.inr ⟨h, h0, rfl⟩)
  · next h => exact .inl ⟨Bool.eq_false_iff.mpr h, rfl⟩

theorem frameArrived_cases (bytes : List Byte) (s : State) :
    (s.status.initDone = false ∧ frameArrived bytes s = s) ∨
    (s.status.initDone = true ∧
      frameArrived bytes s = { s with rxbuf := Memory.ofBytes bytes, status := s.status.setRxPending true }) := by
  unfold frameArrived
  split
  · next h => exact .inr ⟨h, rfl⟩
  · next h => exact .inl ⟨Bool.eq_false_iff.mpr h, rfl⟩

/-! ### The host bus -/

/-- What a command write does: one of the five commands, or an error (44_session.md R192). -/
theorem runCommand_cases (c : Word) (s : State) :
    (decodeCommand c = .init ∧ runCommand c s = execInit s) ∨
    (decodeCommand c = .pack ∧ runCommand c s = execPack s) ∨
    (decodeCommand c = .send ∧ runCommand c s = execSend s) ∨
    (decodeCommand c = .validate ∧ runCommand c s = execValidate s) ∨
    (decodeCommand c = .clrerr ∧ runCommand c s = execClrerr s) ∨
    (decodeCommand c = .eventOnly ∧ runCommand c s = .next (s.raiseError .eventOnlyCmd)) ∨
    (decodeCommand c = .illegal ∧ runCommand c s = .next (s.raiseError .illegalCmd)) := by
  unfold runCommand
  cases decodeCommand c <;> simp

/-- What a register write does: it stores a word, runs a command, or raises BAD_ACCESS (44_session.md R188). -/
theorem execRegWr_cases (o : BitVec 8) (v : Word) (s : State) :
    (regAt o = some .ctrl ∧ execRegWr o v s = .next { s with rxHold := v.getLsbD 0 }) ∨
    (regAt o = some .cmd ∧ execRegWr o v s = runCommand v s) ∨
    (regAt o = some .threshold ∧ execRegWr o v s = .next { s with threshold := v }) ∨
    (∃ r, (regAt o = some .outrecHdr ∧ r = s.outrec.withHdr v ∨
        regAt o = some .outrecPitch ∧ r = { s.outrec with pitch := v } ∨
        regAt o = some .outrecYaw ∧ r = { s.outrec with yaw := v }) ∧
      execRegWr o v s = .next { s with outrec := r }) ∨
    execRegWr o v s = .next (s.raiseError .badAccess) := by
  unfold execRegWr
  split
  · exact .inr (.inr (.inr (.inr rfl)))
  · next r hr =>
    cases r with
    | ctrl => exact .inl ⟨hr, rfl⟩
    | cmd => exact .inr (.inl ⟨hr, rfl⟩)
    | threshold => exact .inr (.inr (.inl ⟨hr, rfl⟩))
    | outrecHdr => exact .inr (.inr (.inr (.inl ⟨_, .inl ⟨hr, rfl⟩, rfl⟩)))
    | outrecPitch => exact .inr (.inr (.inr (.inl ⟨_, .inr (.inl ⟨hr, rfl⟩), rfl⟩)))
    | outrecYaw => exact .inr (.inr (.inr (.inl ⟨_, .inr (.inr ⟨hr, rfl⟩), rfl⟩)))
    | _ => exact .inr (.inr (.inr (.inr rfl)))

/-- What a register read does (44_session.md R187). -/
theorem execRegRd_cases (o : BitVec 8) (s : State) :
    (regAt o = none ∧ execRegRd o s = .next ((s.raiseError .badAccess).answer 0)) ∨
    ∃ r, regAt o = some r ∧ execRegRd o s = .next (s.answer (regValue s r)) := by
  unfold execRegRd
  split
  · next h => exact .inl ⟨h, rfl⟩
  · next r h => exact .inr ⟨r, h, rfl⟩

/-! ### One step -/

/-- What one step does: the receive service's step when no transaction is left, the decoded instruction, BAD_ACCESS for
a bus transaction that is no register access, or the refusal of an event no port has. -/
theorem step_cases (s : State) :
    (s.schedule = [] ∧ step s = execDecode s) ∨
    ∃ t rest, s.schedule = t :: rest ∧
      ((∃ i, decode t = .ok i ∧ step s = exec i { s with schedule := rest }) ∨
       (∃ d v, t = .bus d v ∧ step s = .next (refuseAccess d { s with schedule := rest })) ∨
       step s = .refused .noSuchEvent) := by
  cases hs : s.schedule with
  | nil => exact .inl ⟨rfl, by simp [step, fetch, hs, idle, execDecode]⟩
  | cons t rest =>
    refine .inr ⟨t, rest, rfl, ?_⟩
    cases hd : decode t with
    | ok i => exact .inl ⟨i, rfl, by simp [step, fetch, hs, hd]⟩
    | error r =>
      cases r with
      | badAccess =>
        cases t with
        | bus d v => exact .inr (.inl ⟨d, v, rfl, by simp [step, fetch, hs, hd, rejected]⟩)
        | event c b => exact .inr (.inr (by simp [step, fetch, hs, hd, rejected]))
      | unknownEvent => exact .inr (.inr (by simp [step, fetch, hs, hd, rejected]))

end Sys2Proof.Machine
end

