-- ==== Sys2Proof/Laws/Effect.lean ====
section
/-! SUPPORT. Everything an operation can do when it answers a next state, said once: `exec_effect`. A claim about all
operations is one case split over `Effect`. -/

namespace Sys2Proof.Machine

/-! ### The register map and the command words, read backwards -/

theorem regAt_ctrl {o : BitVec 8} (h : regAt o = some .ctrl) : o = 0x00 := by
  revert o; decide

theorem regAt_cmd {o : BitVec 8} (h : regAt o = some .cmd) : o = cmdOffset := by
  revert o; decide

theorem regAt_threshold {o : BitVec 8} (h : regAt o = some .threshold) : o = 0x10 := by
  revert o; decide

theorem regAt_outrecHdr {o : BitVec 8} (h : regAt o = some .outrecHdr) : o = 0x2C := by
  revert o; decide

theorem regAt_outrecPitch {o : BitVec 8} (h : regAt o = some .outrecPitch) : o = 0x30 := by
  revert o; decide

theorem regAt_outrecYaw {o : BitVec 8} (h : regAt o = some .outrecYaw) : o = 0x34 := by
  revert o; decide

/-- `i` is the operation `k`, or the write of its command word to CMD (44_session.md R192). -/
def Issues (i k : Instr) : Prop := i = k ∨ ∃ c, i = .regWr cmdOffset c ∧ decodeCmdWrite c = k

/-- The operations that may leave everything as it is, and when: a tick, an arrival or a DECODE before INIT, a DECODE
not enabled, a TX_DONE with nothing in flight. -/
def Quiet (i : Instr) (s : State) : Prop :=
  (i = .tick ∧ s.status.initDone = false) ∨ (∃ bytes, i = .rxArrive bytes ∧ s.status.initDone = false) ∨
  (i = .decode ∧ decodeEnabled s = false) ∨ (i = .txDone ∧ s.status.txBusy = false)

/-- When an operation raises an error, and which (60_exceptions.md R224). -/
def Raises (i : Instr) (c : ErrCode) (s : State) : Prop :=
  (Issues i .init ∧ s.status.initDone = true ∧ c = .alreadyInit) ∨
  (Issues i .init ∧ s.status.initDone = false ∧ s.threshold = 0 ∧ c = .badThreshold) ∨
  (Issues i .pack ∧ s.status.txBusy = true ∧ c = .txOverrun) ∨
  (Issues i .send ∧ s.status.initDone = false ∧ c = .notInit) ∨
  (Issues i .send ∧ s.status.initDone = true ∧ s.status.txBusy = true ∧ c = .txOverrun) ∨
  (∃ w, i = .regWr cmdOffset w ∧ decodeCommand w = .eventOnly ∧ c = .eventOnlyCmd) ∨
  (∃ w, i = .regWr cmdOffset w ∧ decodeCommand w = .illegal ∧ c = .illegalCmd) ∨
  (∃ o v, i = .regWr o v ∧ c = .badAccess)

/-- `Effect i s t`: the operation `i` may take the state `s` to `t`, with the condition each way happens under. -/
inductive Effect : Instr → State → State → Prop
  | quiet {i s} : Quiet i s → Effect i s s
  | raised {i s} (c : ErrCode) : Raises i c s → Effect i s (s.raiseError c)
  | readRefused {o s} : regAt o = none → Effect (.regRd o) s ((s.raiseError .badAccess).answer 0)
  | readAnswered {o s} (r : Reg) : regAt o = some r → Effect (.regRd o) s (s.answer (regValue s r))
  | armed {i s} : Issues i .init → s.status.initDone = false → s.threshold ≠ 0 →
      Effect i s { s with linkThr := s.threshold, linkCnt := s.threshold, status := s.status.afterInit }
  | packed {i s} : Issues i .pack → s.status.txBusy = false → Effect i s (packFn Config.hw s)
  | sent {i s} : Issues i .send → s.status.initDone = true → s.status.txBusy = false →
      Effect i s (transmit Config.hw s)
  | validated {i s} : Issues i .validate → Effect i s (validateUnder Config.hw s)
  | cleared {i s} : Issues i .clrerr → Effect i s s.clearError
  | accepted {s} (r : InRec) : decodeEnabled s = true → unpackFn Config.hw s.rxbuf = some r →
      Effect .decode s (acceptRecord r (takePending Config.hw s))
  | dropped {s} : decodeEnabled s = true → unpackFn Config.hw s.rxbuf = none →
      Effect .decode s (takePending Config.hw s)
  | ticked {s} : s.status.initDone = true → s.linkCnt - 1 ≠ 0 → Effect .tick s (countDown s)
  | expired {s} : s.status.initDone = true → s.linkCnt - 1 = 0 → Effect .tick s (expire (countDown s))
  | arrived {bytes s} : bytes.length = 16 → s.status.initDone = true →
      Effect (.rxArrive bytes) s { s with rxbuf := Memory.ofBytes bytes, status := s.status.setRxPending true }
  | txDone {s} : s.status.txBusy = true → Effect .txDone s { s with status := s.status.setTxBusy false }
  | reset {s} : Effect .reset s (resetUnder Config.hw s)
  | ctrlWritten {v s} : Effect (.regWr 0x00 v) s { s with rxHold := v.getLsbD 0 }
  | thresholdWritten {v s} : Effect (.regWr 0x10 v) s { s with threshold := v }
  | outrecWritten {o v s} (r : OutRec) : o = 0x2C ∨ o = 0x30 ∨ o = 0x34 → Effect (.regWr o v) s { s with outrec := r }

/-! ### One lemma per command, for the command itself and for its word in CMD -/

theorem init_effect {i : Instr} (hi : Issues i .init) {s t : State} (h : execInit s = .next t) : Effect i s t := by
  simp only [execInit, Host.Outcome.next.injEq] at h
  obtain ⟨h1, h2⟩ | ⟨h1, h2, h3⟩ | ⟨h1, h2, h3⟩ := initState_cases s
  · exact h ▸ h2 ▸ .raised _ (.inl ⟨hi, h1, rfl⟩)
  · exact h ▸ h3 ▸ .raised _ (.inr (.inl ⟨hi, h1, h2, rfl⟩))
  · exact h ▸ h3 ▸ .armed hi h1 h2

theorem pack_effect {i : Instr} (hi : Issues i .pack) {s t : State} (h : execPack s = .next t) : Effect i s t := by
  simp only [execPack, Host.Outcome.next.injEq] at h
  obtain ⟨h1, h2⟩ | ⟨h1, h2⟩ := packUnder_cases Config.hw s
  · exact h ▸ h2 ▸ .raised _ (.inr (.inr (.inl ⟨hi, h1, rfl⟩)))
  · exact h ▸ h2 ▸ .packed hi h1

theorem send_effect {i : Instr} (hi : Issues i .send) {s t : State} (h : execSend s = .next t) : Effect i s t := by
  simp only [execSend, Host.Outcome.next.injEq] at h
  obtain ⟨h1, h2⟩ | ⟨h1, h2, h3⟩ | ⟨h1, h2, h3⟩ := sendUnder_cases Config.hw s
  · exact h ▸ h2 ▸ .raised _ (.inr (.inr (.inr (.inl ⟨hi, h1, rfl⟩))))
  · exact h ▸ h3 ▸ .raised _ (.inr (.inr (.inr (.inr (.inl ⟨hi, h1, h2, rfl⟩)))))
  · exact h ▸ h3 ▸ .sent hi h1 h2

theorem validate_effect {i : Instr} (hi : Issues i .validate) {s t : State} (h : execValidate s = .next t) :
    Effect i s t := by
  simp only [execValidate, Host.Outcome.next.injEq] at h
  exact h ▸ .validated hi

theorem clrerr_effect {i : Instr} (hi : Issues i .clrerr) {s t : State} (h : execClrerr s = .next t) :
    Effect i s t := by
  simp only [execClrerr, Host.Outcome.next.injEq] at h
  exact h ▸ .cleared hi

theorem decode_effect {s t : State} (h : execDecode s = .next t) : Effect .decode s t := by
  simp only [execDecode, Host.Outcome.next.injEq] at h
  obtain ⟨h1, h2⟩ | ⟨h1, r, h2, h3⟩ | ⟨h1, h2, h3⟩ := decodeUnder_cases Config.hw s
  · obtain rfl := h.symm.trans h2
    exact .quiet (.inr (.inr (.inl ⟨rfl, h1⟩)))
  · exact h ▸ h3 ▸ .accepted r h1 h2
  · exact h ▸ h3 ▸ .dropped h1 h2

theorem tick_effect {s t : State} (h : execTick s = .next t) : Effect .tick s t := by
  simp only [execTick, Host.Outcome.next.injEq] at h
  obtain ⟨h1, h2⟩ | ⟨h1, h2, h3⟩ | ⟨h1, h2, h3⟩ := tickState_cases s
  · obtain rfl := h.symm.trans h2
    exact .quiet (.inl ⟨rfl, h1⟩)
  · exact h ▸ h3 ▸ .expired h1 h2
  · exact h ▸ h3 ▸ .ticked h1 h2

theorem rxArrive_effect {bytes : List Byte} {s t : State} (h : execRxArrive bytes s = .next t) :
    Effect (.rxArrive bytes) s t := by
  by_cases hl : bytes.length = 16
  · simp only [execRxArrive, hl, if_true, Host.Outcome.next.injEq] at h
    obtain ⟨h1, h2⟩ | ⟨h1, h2⟩ := frameArrived_cases bytes s
    · obtain rfl := h.symm.trans h2
      exact .quiet (.inr (.inl ⟨bytes, rfl, h1⟩))
    · exact h ▸ h2 ▸ .arrived hl h1
  · simp [execRxArrive, hl] at h

theorem txDone_effect {s t : State} (h : execTxDone s = .next t) : Effect .txDone s t := by
  simp only [execTxDone, Host.Outcome.next.injEq] at h
  by_cases hb : s.status.txBusy = true
  · simp only [hb, if_true] at h
    exact h ▸ .txDone hb
  · simp only [hb, if_false, Bool.false_eq_true] at h
    exact h ▸ .quiet (.inr (.inr (.inr ⟨rfl, Bool.eq_false_iff.mpr hb⟩)))

theorem regRd_effect {o : BitVec 8} {s t : State} (h : execRegRd o s = .next t) : Effect (.regRd o) s t := by
  obtain ⟨h1, h2⟩ | ⟨r, h1, h2⟩ := execRegRd_cases o s
  · rw [h2, Host.Outcome.next.injEq] at h
    exact h ▸ .readRefused h1
  · rw [h2, Host.Outcome.next.injEq] at h
    exact h ▸ .readAnswered r h1

theorem cmdWrite_effect {c : Word} {s t : State} (h : runCommand c s = .next t) :
    Effect (.regWr cmdOffset c) s t := by
  have via {k : Command} {j : Instr} (hk : decodeCommand c = k) (hj : decodeCommand c = k → decodeCmdWrite c = j) :
      Issues (.regWr cmdOffset c) j := .inr ⟨c, rfl, hj hk⟩
  obtain ⟨h1, h2⟩ | ⟨h1, h2⟩ | ⟨h1, h2⟩ | ⟨h1, h2⟩ | ⟨h1, h2⟩ | ⟨h1, h2⟩ | ⟨h1, h2⟩ := runCommand_cases c s <;>
    rw [h2] at h
  · exact init_effect (via h1 fun h => by simp [decodeCmdWrite, h]) h
  · exact pack_effect (via h1 fun h => by simp [decodeCmdWrite, h]) h
  · exact send_effect (via h1 fun h => by simp [decodeCmdWrite, h]) h
  · exact validate_effect (via h1 fun h => by simp [decodeCmdWrite, h]) h
  · exact clrerr_effect (via h1 fun h => by simp [decodeCmdWrite, h]) h
  · rw [Host.Outcome.next.injEq] at h
    exact h ▸ .raised _ (.inr (.inr (.inr (.inr (.inr (.inl ⟨c, rfl, h1, rfl⟩))))))
  · rw [Host.Outcome.next.injEq] at h
    exact h ▸ .raised _ (.inr (.inr (.inr (.inr (.inr (.inr (.inl ⟨c, rfl, h1, rfl⟩)))))))

theorem regWr_effect {o : BitVec 8} {v : Word} {s t : State} (h : execRegWr o v s = .next t) :
    Effect (.regWr o v) s t := by
  obtain ⟨h1, h2⟩ | ⟨h1, h2⟩ | ⟨h1, h2⟩ | ⟨r, h1, h2⟩ | h2 := execRegWr_cases o v s <;> rw [h2] at h
  · rw [Host.Outcome.next.injEq] at h
    exact h ▸ regAt_ctrl h1 ▸ .ctrlWritten
  · exact regAt_cmd h1 ▸ cmdWrite_effect h
  · rw [Host.Outcome.next.injEq] at h
    exact h ▸ regAt_threshold h1 ▸ .thresholdWritten
  · rw [Host.Outcome.next.injEq] at h
    refine h ▸ .outrecWritten r ?_
    obtain ⟨h1, -⟩ | ⟨h1, -⟩ | ⟨h1, -⟩ := h1
    · exact .inl (regAt_outrecHdr h1)
    · exact .inr (.inl (regAt_outrecPitch h1))
    · exact .inr (.inr (regAt_outrecYaw h1))
  · rw [Host.Outcome.next.injEq] at h
    exact h ▸ .raised _ (.inr (.inr (.inr (.inr (.inr (.inr (.inr ⟨o, v, rfl, rfl⟩)))))))

/-- Everything an operation can do when it answers a next state. -/
theorem exec_effect {i : Instr} {s t : State} (h : exec i s = .next t) : Effect i s t := by
  cases i with
  | init => exact init_effect (.inl rfl) h
  | pack => exact pack_effect (.inl rfl) h
  | send => exact send_effect (.inl rfl) h
  | validate => exact validate_effect (.inl rfl) h
  | clrerr => exact clrerr_effect (.inl rfl) h
  | decode => exact decode_effect h
  | tick => exact tick_effect h
  | rxArrive bytes => exact rxArrive_effect h
  | txDone => exact txDone_effect h
  | reset =>
    simp only [exec, execReset, Host.Outcome.next.injEq] at h
    exact h ▸ .reset
  | regRd o => exact regRd_effect h
  | regWr o v => exact regWr_effect h

/-! ### What follows from the effects -/

/-- No operation touches what the agents have still to do. -/
theorem exec_schedule {i : Instr} {s t : State} (h : exec i s = .next t) : t.schedule = s.schedule := by
  have e := exec_effect h
  clear h
  cases e <;> rfl

/-- An enabled DECODE of a frame UNPACK_FN accepts is a decode success (44_session.md R195). -/
theorem decodeSucceeds_of_unpack {s : State} {r : InRec} (h : decodeEnabled s = true)
    (hu : unpackFn Config.hw s.rxbuf = some r) : decodeSucceeds Config.hw s = true := by
  obtain ⟨hs, hc, -⟩ := unpackFn_eq_some.mp hu
  simp [decodeSucceeds, h, sentinelMatches, frameValid, hs, hc]

/-- A property every effect keeps, that does not look at the schedule and that a refused access keeps, is kept by every
step. -/
theorem step_keeps (P : State → Prop) (hs : ∀ s l, P s → P { s with schedule := l })
    (hb : ∀ s d, P s → P (refuseAccess d s)) (he : ∀ i s t, P s → Effect i s t → P t) {s t : State} (hp : P s)
    (h : step s = .next t) : P t := by
  obtain ⟨-, h2⟩ | ⟨t', rest, -, h2⟩ := step_cases s
  · exact he .decode s t hp (exec_effect (h2.symm.trans h))
  · obtain ⟨i, -, h2⟩ | ⟨d, v, -, h2⟩ | h2 := h2
    · exact he i _ t (hs _ _ hp) (exec_effect (h2.symm.trans h))
    · rw [h2, Host.Outcome.next.injEq] at h
      exact h ▸ hb _ _ (hs _ _ hp)
    · rw [h2] at h
      cases h

/-- The word of each host command, read backwards from the operation it issues (30_encoding.md R79). -/
theorem decodeCmdWrite_word {c : Word} {k : Instr} (h : decodeCmdWrite c = k) :
    (k = .init → c = 1) ∧ (k = .pack → c = 2) ∧ (k = .send → c = 3) ∧ (k = .validate → c = 4) ∧ (k = .clrerr → c = 5) := by
  unfold decodeCmdWrite decodeCommand at h
  by_cases hh : c.extractLsb' 8 24 ≠ 0
  · rw [if_pos hh] at h
    subst h
    simp
  · have hlt : c.toNat < 256 := by
      have := congrArg BitVec.toNat (not_not.mp hh)
      simp [Nat.shiftRight_eq_div_pow] at this
      have := c.isLt
      omega
    obtain ⟨n, hn, rfl⟩ : ∃ n, n < 256 ∧ c = BitVec.ofNat 32 n := ⟨c.toNat, hlt, by simp⟩
    rw [if_neg hh, show ((BitVec.ofNat 32 n).extractLsb' 0 8).toNat = n by simp; omega] at h
    clear hlt hh
    interval_cases n <;> simp at h <;> subst h <;> simp

/-- The two spellings of a host command: itself, and its word written to CMD. -/
theorem Issues.cases {i k : Instr} (h : Issues i k) :
    i = k ∨ (k = .init ∧ i = .regWr cmdOffset 1) ∨ (k = .pack ∧ i = .regWr cmdOffset 2) ∨
    (k = .send ∧ i = .regWr cmdOffset 3) ∨ (k = .validate ∧ i = .regWr cmdOffset 4) ∨
    (k = .clrerr ∧ i = .regWr cmdOffset 5) ∨ ∃ a b, k = .regWr a b := by
  rcases h with h | ⟨c, rfl, h⟩
  · exact .inl h
  · have hw := decodeCmdWrite_word h
    unfold decodeCmdWrite at h
    cases hc : decodeCommand c <;> simp [hc] at h <;> subst h <;> simp at hw <;> simp [hw]

end Sys2Proof.Machine
end

