-- ==== Sys2Proof/Laws/PerInstr.lean ====
section
/-! SUPPORT. One lemma per constructor of `Instr`: the transaction that carries an instruction comes from the agent that
issues it (opcode_table.json, "issued_by"; 30_encoding.md R79, R84). -/

namespace Sys2Proof.Laws.IssuedBy

/-- A host operation is carried by a bus transaction of SIZE 0b10 with W = 1 for every operation but a read, an event
by its event code. -/
def Statement (i : Instr) : Prop :=
  match encode i with
  | .bus d _ => d.extractLsb' 9 2 = 0b10#2 ∧ (d.extractLsb' 8 1 = 0#1 ↔ ∃ o, i = .regRd o)
  | .event c _ => 0x80 ≤ c.toNat ∧ c.toNat ≤ 0x84

theorem size_read (o : BitVec 8) :
    (readDescriptor o).extractLsb' 9 2 = 0b10#2 ∧ (readDescriptor o).extractLsb' 8 1 = 0#1 := by
  refine ⟨?_, ?_⟩ <;>
    · refine BitVec.eq_of_getLsbD_eq fun i hi => ?_
      interval_cases i <;> simp [readDescriptor]

theorem size_write (o : BitVec 8) :
    (writeDescriptor o).extractLsb' 9 2 = 0b10#2 ∧ (writeDescriptor o).extractLsb' 8 1 = 1#1 := by
  refine ⟨?_, ?_⟩ <;>
    · refine BitVec.eq_of_getLsbD_eq fun i hi => ?_
      interval_cases i <;> simp [writeDescriptor]

theorem init : Statement .init := by simp [Statement, encode, commandWrite, size_write]

theorem pack : Statement .pack := by simp [Statement, encode, commandWrite, size_write]

theorem send : Statement .send := by simp [Statement, encode, commandWrite, size_write]

theorem validate : Statement .validate := by simp [Statement, encode, commandWrite, size_write]

theorem clrerr : Statement .clrerr := by simp [Statement, encode, commandWrite, size_write]

theorem decode : Statement .decode := by simp [Statement, encode]

theorem tick : Statement .tick := by simp [Statement, encode]

theorem rxArrive (bytes : List Byte) : Statement (.rxArrive bytes) := by simp [Statement, encode]

theorem txDone : Statement .txDone := by simp [Statement, encode]

theorem reset : Statement .reset := by simp [Statement, encode]

theorem regRd (offset : BitVec 8) : Statement (.regRd offset) := by simp [Statement, encode, size_read]

theorem regWr (offset : BitVec 8) (data : Word) : Statement (.regWr offset data) := by
  simp [Statement, encode, size_write]

end Sys2Proof.Laws.IssuedBy
end

