-- ==== Sys2Proof/Laws/Validator.lean ====
section
/-! SUPPORT. CRC_STM32 word by word (40_crc_validator.md R101): each step is one to one, in the running value and in the
word. -/

namespace Sys2Proof.Machine

/-- One bit of CRC_STM32 undone: the polynomial is odd, so bit 0 tells whether it was added. -/
def crcStm32Unbit (c : Word) : Word :=
  if c.getLsbD 0 then ((c ^^^ 0x04C11DB7) >>> 1) ||| 0x80000000 else c >>> 1

theorem crcStm32Unbit_bit (c : Word) : crcStm32Unbit (crcStm32Bit c) = c := by
  unfold crcStm32Unbit crcStm32Bit
  cases h : c.getLsbD 31
  · rw [BitVec.getLsbD_eq_getElem (by omega)] at h
    simp
    refine BitVec.eq_of_getLsbD_eq fun i hi => ?_
    interval_cases i <;> simp [h]
  · rw [BitVec.getLsbD_eq_getElem (by omega)] at h
    simp
    refine BitVec.eq_of_getLsbD_eq fun i hi => ?_
    interval_cases i <;> simp [h]

theorem crcStm32Bit_inj {c d : Word} (h : crcStm32Bit c = crcStm32Bit d) : c = d := by
  rw [← crcStm32Unbit_bit c, h, crcStm32Unbit_bit]

theorem crcStm32Bits_inj {n : Nat} {c d : Word} (h : crcStm32Bits n c = crcStm32Bits n d) : c = d := by
  induction n generalizing c d with
  | zero => exact h
  | succ n ih => exact crcStm32Bit_inj (ih h)

theorem crcStm32Word_inj_left {c d w : Word} (h : crcStm32Word c w = crcStm32Word d w) : c = d := by
  simpa using crcStm32Bits_inj h

theorem crcStm32Word_inj_right {c w v : Word} (h : crcStm32Word c w = crcStm32Word c v) : w = v := by
  simpa using crcStm32Bits_inj h

/-! ### One flipped bit -/

theorem flip_ne (b : Byte) (j : Fin 8) : b ^^^ (1#8 <<< j.val) ≠ b := by
  intro h
  have hz := congrArg (fun x => b ^^^ x) h
  simp at hz
  have k : ∀ j : Fin 8, ¬1#8 <<< j.val = 0#8 := by decide
  exact k j hz

/-- A word that does not hold the written byte is as it was. -/
theorem le32_write_outside {m : Memory} (hm : m.wf) (a : FrameAddr) (v : Byte) (o : Nat) (h : o + 3 < 16)
    (hn : ¬(o ≤ a.val ∧ a.val ≤ o + 3)) : le32 (m.write a v) o h = le32 m o h := by
  refine le32_congr o h fun b h1 h2 => ?_
  rw [Memory.read_write m hm, if_neg]
  rintro rfl
  exact hn ⟨h1, h2⟩

/-- A word that holds a byte written with another value changes. -/
theorem le32_write_inside {m : Memory} (hm : m.wf) (a : FrameAddr) (v : Byte) (o : Nat) (h : o + 3 < 16)
    (hi : o ≤ a.val ∧ a.val ≤ o + 3) (hv : v ≠ m.read a) : le32 (m.write a v) o h ≠ le32 m o h := by
  intro he
  have hr : (m.write a v).read a = v := by rw [Memory.read_write m hm, if_pos rfl]
  obtain ⟨a0, a1, a2, a3⟩ := le32_bytes (m.write a v) o h
  obtain ⟨b0, b1, b2, b3⟩ := le32_bytes m o h
  rw [he] at a0 a1 a2 a3
  refine hv (hr.symm.trans ?_)
  generalize m.write a v = n at *
  have hc : a.val = o ∨ a.val = o + 1 ∨ a.val = o + 2 ∨ a.val = o + 3 := by omega
  rcases hc with hc | hc | hc | hc
  · rw [show a = ⟨o, by omega⟩ from Fin.ext hc]; exact a0.symm.trans b0
  · rw [show a = ⟨o + 1, by omega⟩ from Fin.ext hc]; exact a1.symm.trans b1
  · rw [show a = ⟨o + 2, by omega⟩ from Fin.ext hc]; exact a2.symm.trans b2
  · rw [show a = ⟨o + 3, by omega⟩ from Fin.ext hc]; exact a3.symm.trans b3

end Sys2Proof.Machine
end

