-- ==== Sys2Proof/Machine/Script.lean ====
section
/-! DEFINITION. Host bus scripts (30_encoding.md R88, R89): each line of a script is a transaction, each
pseudo-instruction the list of lines it expands to. The machine never reads a name of this file; a program is what
stands in `schedule`. -/

namespace Sys2Proof.Machine.Script

/-- `rd REG` (30_encoding.md R88). -/
def rd (r : Reg) : Transaction := .bus (readDescriptor (regOffset r)) 0

/-- `wr REG, v` (30_encoding.md R88). -/
def wr (r : Reg) (v : Word) : Transaction := .bus (writeDescriptor (regOffset r)) v

/-- `cmd INIT` (30_encoding.md R88). -/
def cmdInit : Transaction := wr .cmd 0x00000001

/-- `cmd PACK` (30_encoding.md R88). -/
def cmdPack : Transaction := wr .cmd 0x00000002

/-- `cmd SEND` (30_encoding.md R88), the pseudo-instruction `send` (R89). -/
def cmdSend : Transaction := wr .cmd 0x00000003

/-- `cmd VALIDATE` (30_encoding.md R88). -/
def cmdValidate : Transaction := wr .cmd 0x00000004

/-- `cmd CLRERR` (30_encoding.md R88). -/
def cmdClrerr : Transaction := wr .cmd 0x00000005

/-- `ev rx b0 .. b15` (30_encoding.md R88). -/
def evRx (bytes : List Byte) : Transaction := .event 0x82 bytes

/-- `ev txdone` (30_encoding.md R88). -/
def evTxdone : Transaction := .event 0x83 []

/-- `ev tick` (30_encoding.md R88). -/
def evTick : Transaction := .event 0x81 []

/-- `ev reset` (30_encoding.md R88). -/
def evReset : Transaction := .event 0x84 []

/-- `(decode)` (30_encoding.md R88). -/
def decodeStep : Transaction := .event 0x80 []

/-- `init N` (30_encoding.md R89). -/
def initWith (n : Word) : List Transaction := [wr .threshold n, cmdInit]

/-- `setrec s, f, p, y, r` (30_encoding.md R89). -/
def setrec (s f : Byte) (p y : Word) (r : Half) : List Transaction :=
  [wr .outrecHdr (headerWord s f r), wr .outrecPitch p, wr .outrecYaw y]

/-- `hold` (30_encoding.md R89). -/
def hold : Transaction := wr .ctrl 1

/-- `release` (30_encoding.md R89). -/
def release : Transaction := wr .ctrl 0

/-- `snap` (30_encoding.md R89): the torn-read-free read of 70_reset_and_hazards.md R261. -/
def snap : List Transaction :=
  [hold, rd .inrecHdr, rd .inrecPitch, rd .inrecYaw, rd .inrecCrc, rd .status, release]

/-- One pass of `waittx` (30_encoding.md R89): the loop itself is the host's (log 17). -/
def waittxPass : Transaction := rd .status

/-- The exit condition of `waittx`: bit 3 of the STATUS word read is 0 (30_encoding.md R89; log 17). -/
def waittxExit (status : Word) : Bool := !status.getLsbD 3

end Sys2Proof.Machine.Script
end

