-- ==== Sys2Proof/Tests/Slice0.lean ====
section
/-! SUPPORT. The model's own tests: what WellFormed refuses, the words of spec/30_encoding.md, vectors of
spec/95_test_vectors.md, and for every obligation with hypotheses a witness that meets them. -/

namespace Sys2Proof.Tests

open Sys2Proof Sys2Proof.Machine

/-! ### Helpers -/

/-- The outcome is a next state. -/
def isNext : Host.Outcome State Fault Refusal → Bool
  | .next _ => true
  | .fault _ => false
  | .refused _ => false

theorem exists_next {o : Host.Outcome State Fault Refusal} (h : isNext o = true) : ∃ t, o = .next t := by
  cases o with
  | next t => exact ⟨t, rfl⟩
  | fault f => cases h
  | refused r => cases h

/-- Right after reset, under the test configuration of 95_test_vectors.md. -/
def fresh : State := State.resetWith testConfiguration

/-- After `init n`. -/
def armed (n : Word) : State := initState { fresh with threshold := n }

/-- The 'A' record of 95_test_vectors.md W8. -/
def recordA : OutRec := { sof := 0x41, fire := 3, pitch := 0x3FC00000, yaw := 0xBF000000, rsvd := 0 }

/-- Its frame (W1). -/
def frameA : List Byte := [0x41, 3, 0, 0, 0xC0, 0x3F, 0, 0, 0, 0xBF, 0, 0, 0x0C, 0x2B, 0xC4, 0x5D]

/-- Its frame with byte 5 corrupted (W8). -/
def frameBad : List Byte := [0x41, 3, 0, 0, 0xC0, 0, 0, 0, 0, 0xBF, 0, 0, 0x0C, 0x2B, 0xC4, 0x5D]

/-- After `init 10`, `ev rx bytes` and some ticks. -/
def pendingFrame (bytes : List Byte) (ticksLeft : Word) : State :=
  { frameArrived bytes (armed 10) with linkCnt := ticksLeft }

/-! ### Well-formedness: one ill-formed term for each check -/

theorem test_wf_refuses_short_frame : (Instr.rxArrive (List.replicate 15 0)).wellFormed = false := by decide

theorem test_wf_refuses_long_frame : (Instr.rxArrive (List.replicate 17 0)).wellFormed = false := by decide

theorem test_wf_refuses_misaligned_read : (Instr.regRd 0x06).wellFormed = false := by decide

theorem test_wf_refuses_misaligned_write : (Instr.regWr 0x11 0).wellFormed = false := by decide

theorem test_wf_refuses_command_spelt_as_write : (Instr.regWr 0x0C 5).wellFormed = false := by decide

theorem test_wf_accepts :
    (Instr.rxArrive frameA).wellFormed = true ∧ (Instr.regRd 0xFC).wellFormed = true ∧
    (Instr.regWr 0x0C 6).wellFormed = true ∧ (Instr.regWr 0x00 5).wellFormed = true := by decide

/-! ### Decoding: words written out from 30_encoding.md R79 (OP in bits 7:0), R84 (SIZE, W, OFFSET) and R88 -/

theorem test_decode_init : decode (.bus 0b10_1_00001100 0x00000001) = .ok .init := by rfl

theorem test_decode_pack : decode (.bus 0b10_1_00001100 0x00000002) = .ok .pack := by rfl

theorem test_decode_send : decode (.bus 0b10_1_00001100 0x00000003) = .ok .send := by rfl

theorem test_decode_validate : decode (.bus 0b10_1_00001100 0x00000004) = .ok .validate := by rfl

theorem test_decode_clrerr : decode (.bus 0b10_1_00001100 0x00000005) = .ok .clrerr := by rfl

theorem test_decode_decode : decode (.event 0b10000000 []) = .ok .decode := by rfl

theorem test_decode_tick : decode (.event 0b10000001 []) = .ok .tick := by rfl

theorem test_decode_rxArrive : decode (.event 0b10000010 frameA) = .ok (.rxArrive frameA) := by rfl

theorem test_decode_txDone : decode (.event 0b10000011 []) = .ok .txDone := by rfl

theorem test_decode_reset : decode (.event 0b10000100 []) = .ok .reset := by rfl

/-- V-RA-1: descriptor 0x410. -/
theorem test_decode_regRd : decode (.bus 0b10_0_00010000 0) = .ok (.regRd 0x10) := by rfl

/-- V-RA-16: descriptor 0x530 with its data word. -/
theorem test_decode_regWr : decode (.bus 0b10_1_00110000 0x7FC00000) = .ok (.regWr 0x30 0x7FC00000) := by rfl

/-- V-SE-9 to V-SE-13: words that are no command stay writes of CMD. -/
theorem test_decode_illegal_words :
    decodeCommand 0x00000000 = .illegal ∧ decodeCommand 0x00000006 = .illegal ∧ decodeCommand 0x0000007F = .illegal ∧
    decodeCommand 0x00000085 = .illegal ∧ decodeCommand 0x00000101 = .illegal ∧ decodeCommand 0x80000003 = .illegal ∧
    decodeCommand 0x00000084 = .eventOnly := by decide

/-- V-RA-7 to V-RA-10: descriptors that are no register access. -/
theorem test_decode_bad_descriptors :
    decodeDescriptor 0x406 = .badAccess ∧ decodeDescriptor 0x210 = .badAccess ∧ decodeDescriptor 0x010 = .badAccess ∧
    decodeDescriptor 0x610 = .badAccess := by decide

theorem test_decode_unknown_event : decode (.event 0x85 []) = .error .unknownEvent := by rfl

/-- The rows of the opcode table, as the host numbers them. -/
theorem test_decode_table_words :
    decodeTableWord 32 0x82 = some (.rxArrive (List.replicate 16 0)) ∧ decodeTableWord 16 0x458 = some (.regRd 0x58) ∧
    decodeTableWord 16 0x500 = some (.regWr 0x00 0) := by decide

/-! ### Vectors of 95_test_vectors.md, at most two an operation -/

set_option maxRecDepth 20000

/-- V-CRC-6. -/
theorem test_crc_of_record_a : crcStm32 [0x00000341, 0x00003FC0, 0x0000BF00] = 0x5DC42B0C := by decide

/-- V-CRC-9. -/
theorem test_crc_of_nan_record : crcStm32 [0x00008041, 0x0000BF80, 0xFFFF7FC0] = 0xA16F3123 := by decide

/-- V-SE-1 with V-LS-9's threshold. -/
theorem test_init_arms : (armed 0xFFFFFFFF).linkCnt = 0xFFFFFFFF ∧ (armed 0xFFFFFFFF).status.word = 0x01 := by decide

/-- V-SE-3: a second INIT. -/
theorem test_init_twice :
    (initState (armed 10)).errcode = 4 ∧ (initState (armed 10)).status.word = 0x41 ∧
    (initState (armed 10)).linkCnt = 10 := by decide

/-- V-PK-1. -/
theorem test_pack_record_a :
    (packUnder testConfiguration { fresh with outrec := recordA }).txbuf.bytes = frameA := by decide

/-- V-PK-3: the i8 minimum, NaN bits, an i16 of -1. -/
theorem test_pack_signed_fields :
    (packUnder testConfiguration { fresh with outrec :=
      { sof := 0x41, fire := 0x80, pitch := 0xBF800000, yaw := 0x7FC00000, rsvd := 0xFFFF } }).txbuf.bytes =
    [0x41, 0x80, 0, 0, 0x80, 0xBF, 0, 0, 0xC0, 0x7F, 0xFF, 0xFF, 0x23, 0x31, 0x6F, 0xA1] := by decide

/-- P1 line 6. -/
theorem test_send_record_a :
    (sendUnder testConfiguration { armed 3 with outrec := recordA }).hist =
      [.crcCall [0x00000341, 0x00003FC0, 0x0000BF00] 0x5DC42B0C, .txSend frameA] := by decide

/-- V-SE-4. -/
theorem test_send_before_init :
    (sendUnder testConfiguration fresh).errcode = 3 ∧ (sendUnder testConfiguration fresh).status.word = 0x40 := by decide

/-- V-VAL-2. -/
theorem test_validate_pending_frame :
    (validateUnder testConfiguration (pendingFrame frameA 10)).status.word = 0x31 := by decide

/-- V-VAL-3. -/
theorem test_validate_bad_frame :
    (validateUnder testConfiguration (pendingFrame frameBad 10)).status.word = 0x11 := by decide

/-- V-SE-7. -/
theorem test_clrerr_keeps_faults :
    (State.clearError (State.raiseError .txOverrun (armed 10))).status.word = 0x01 ∧
    (State.clearError (State.raiseError .txOverrun (armed 10))).faults = [.txOverrun] := by decide

/-- V-DEC-1. -/
theorem test_decode_accepts_record_a :
    (decodeUnder testConfiguration (pendingFrame frameA 4)).inrec =
      { sof := 0x41, fire := 3, pitch := 0x3FC00000, yaw := 0xBF000000, rsvd := 0, crc := 0x5DC42B0C } ∧
    (decodeUnder testConfiguration (pendingFrame frameA 4)).linkCnt = 10 ∧
    (decodeUnder testConfiguration (pendingFrame frameA 4)).status.word = 0x03 := by decide

/-- V-DEC-3: a wrong sentinel is dropped with no CrcCall. -/
theorem test_decode_drops_wrong_sentinel :
    (decodeUnder testConfiguration (pendingFrame
      [0x42, 3, 0, 0, 0xC0, 0x3F, 0, 0, 0, 0xBF, 0, 0, 0x11, 0xC8, 0x04, 0x4F] 4)).hist = [] ∧
    (decodeUnder testConfiguration (pendingFrame
      [0x42, 3, 0, 0, 0xC0, 0x3F, 0, 0, 0, 0xBF, 0, 0, 0x11, 0xC8, 0x04, 0x4F] 4)).status.word = 0x01 := by decide

/-- V-LS-4. -/
theorem test_tick_expires :
    (tickState (armed 1)).hist = [.reinitReq, .diag .linkOffline] ∧ (tickState (armed 1)).linkCnt = 1 ∧
    (tickState (armed 1)).status.word = 0x05 := by decide

/-- V-LS-9. -/
theorem test_tick_counts_down : (tickState (armed 0xFFFFFFFF)).linkCnt = 0xFFFFFFFE := by decide

/-- V-TP-2, read through RXBUF0 and RXBUF3. -/
theorem test_rxArrive_stores :
    regValue (pendingFrame frameA 10) (.rxbuf 0) = 0x00000341 ∧
    regValue (pendingFrame frameA 10) (.rxbuf 3) = 0x5DC42B0C := by decide

/-- V-TP-1 and V-TP-5. -/
theorem test_rxArrive_before_init_and_wrong_length :
    execRxArrive frameA fresh = .next fresh ∧ execRxArrive (frameA.take 15) (armed 10) = .refused .rxLength := ⟨rfl, rfl⟩

/-- V-TP-6. -/
theorem test_txDone_clears :
    execTxDone { armed 10 with status := (armed 10).status.setTxBusy true } = .next (armed 10) := by rfl

/-- V-RS-4. -/
theorem test_reset_drops_pending_frame :
    (resetUnder testConfiguration (pendingFrame frameA 4)).status.word = 0 ∧
    (resetUnder testConfiguration (pendingFrame frameA 4)).threshold = 10 ∧
    regValue (resetUnder testConfiguration (pendingFrame frameA 4)) .outrecHdr = 0x00000041 := by decide

/-- V-RA-1 and V-RA-3. -/
theorem test_regRd_threshold_and_cmd :
    execRegRd 0x10 fresh = .next { fresh with readLog := [10] } ∧
    execRegRd 0x0C fresh = .next { fresh with readLog := [0] } := ⟨rfl, rfl⟩

/-- V-RA-5. -/
theorem test_regRd_unmapped :
    execRegRd 0x5C fresh = .next { fresh.raiseError .badAccess with readLog := [0] } := by rfl

/-- V-RA-11 and V-RA-12. -/
theorem test_regWr_ctrl :
    execRegWr 0x00 0xFFFFFFFE fresh = .next fresh ∧
    execRegWr 0x00 0x00000003 fresh = .next { fresh with rxHold := true } := ⟨rfl, rfl⟩

/-- V-RA-4. -/
theorem test_regWr_read_only : execRegWr 0x04 0 fresh = .next (fresh.raiseError .badAccess) := by rfl

/-- 30_encoding.md R89: `setrec` of the 'A' record is lines 3 to 5 of P1. -/
theorem test_script_setrec :
    Script.setrec 0x41 3 0x3FC00000 0xBF000000 0 =
      [.bus 0x52C 0x00000341, .bus 0x530 0x3FC00000, .bus 0x534 0xBF000000] := by decide

/-- The host's first step after reset runs the word placed for it. -/
theorem test_step_runs_fetched_word :
    isNext (step (State.reset.withFetchWord 32 0x01)) = true ∧ isNext (step (State.reset.withFetchWord 32 0x82)) = true ∧
    isNext (step (State.reset.withFetchWord 16 0x410)) = true := by decide

/-! ### Witnesses: states that meet the hypotheses of the obligations

`Config.hw` has no body, so a frame the machine itself accepts is packed under `Config.hw`. -/

/-- A record whose marker is the machine's inbound sentinel. -/
def goodRecord : OutRec := { sof := Config.hw.rxSof, fire := 3, pitch := 0x3FC00000, yaw := 0xBF000000, rsvd := 0 }

/-- A frame the machine accepts. -/
def goodFrame : Memory := packFrame Config.hw goodRecord

/-- A frame with a good marker and the complement of its CRC. -/
def badCrcFrame : Memory := (packPrefix goodRecord).write32 12 (~~~crcOf Config.hw (packPrefix goodRecord))

/-- A frame with a wrong marker. -/
def badMarkerFrame : Memory := packFrame Config.hw { goodRecord with sof := ~~~Config.hw.rxSof }

/-- An armed block with the frame `m` pending. -/
def pendingOf (m : Memory) : State := { armed 10 with rxbuf := m, status := (armed 10).status.setRxPending true }

/-- An armed block with a transmit in flight. -/
def sending : State := { armed 10 with status := (armed 10).status.setTxBusy true }

theorem goodFrame_wf : goodFrame.wf := packFrame_wf Config.hw goodRecord

theorem goodFrame_marker : goodFrame.read 0 = Config.hw.rxSof := by
  rw [goodFrame, packFrame_read_prefix _ _ _ (by decide), packPrefix_read]
  rfl

theorem goodFrame_crc : crcOf Config.hw goodFrame = crcField goodFrame := by
  rw [goodFrame, crcOf_packFrame, crcField_packFrame]

theorem goodFrame_unpacks : unpackFn Config.hw goodFrame = some (frameRecord goodFrame) :=
  unpackFn_eq_some.mpr ⟨goodFrame_marker, goodFrame_crc, rfl⟩

theorem complement_ne {n : Nat} (v : BitVec (n + 1)) : ~~~v ≠ v := by
  intro h
  have := congrArg (fun x => x.getLsbD 0) h
  simp at this

theorem badMarkerFrame_marker : badMarkerFrame.read 0 ≠ Config.hw.rxSof := by
  rw [badMarkerFrame, packFrame_read_prefix _ _ _ (by decide), packPrefix_read]
  exact complement_ne _

theorem badCrcFrame_marker : badCrcFrame.read 0 = Config.hw.rxSof := by
  rw [badCrcFrame, Memory.read_write32 _ (packPrefix_wf _), packPrefix_read]
  rfl

theorem badCrcFrame_crc : crcOf Config.hw badCrcFrame ≠ crcField badCrcFrame := by
  have hw : crcOf Config.hw badCrcFrame = crcOf Config.hw (packPrefix goodRecord) := by
    simp only [crcOf]
    refine congrArg _ (crcWordList_congr fun a ha => ?_)
    rw [badCrcFrame, Memory.read_write32 _ (packPrefix_wf _)]
    rw [if_neg (by omega), if_neg (by omega), if_neg (by omega), if_neg (by omega)]
  have hf : crcField badCrcFrame = ~~~crcOf Config.hw (packPrefix goodRecord) :=
    le32_write32 _ (packPrefix_wf _) 12 _ (by decide)
  rw [hw, hf]
  exact (complement_ne _).symm

theorem pendingGood_succeeds : decodeSucceeds Config.hw (pendingOf goodFrame) = true :=
  decodeSucceeds_of_unpack (r := frameRecord goodFrame) rfl goodFrame_unpacks

theorem decode_pendingGood :
    exec .decode (pendingOf goodFrame) =
      .next (acceptRecord (frameRecord goodFrame) (takePending Config.hw (pendingOf goodFrame))) := by
  have he : decodeEnabled (pendingOf goodFrame) = true := rfl
  have hu : unpackFn Config.hw (pendingOf goodFrame).rxbuf = some (frameRecord goodFrame) := goodFrame_unpacks
  simp only [exec, execDecode, decodeUnder, he, if_true, decodePending, hu]

/-- Thresholds 1 and 0xFFFFFFFF arm; a second INIT, with threshold 0 too, and a zero threshold are the other clauses. -/
theorem witness_InitArmsTheSupervisor :
    (fresh.status.initDone = false ∧ { fresh with threshold := 1 }.threshold ≠ 0 ∧
      { fresh with threshold := 0xFFFFFFFF }.threshold ≠ 0) ∧
    { armed 10 with threshold := 0 }.status.initDone = true ∧
    (fresh.status.initDone = false ∧ { fresh with threshold := 0 }.threshold = 0) := by decide

theorem witness_PackWritesTheWireFormat : fresh.status.txBusy = false := rfl

theorem witness_PackIsTurnedAwayWhileBusy : fresh.status.txBusy = false ∧ sending.status.txBusy = true := by decide

theorem witness_SendPacksAndTransmits :
    ((armed 10).status.initDone = true ∧ (armed 10).status.txBusy = false) ∧ fresh.status.initDone = false ∧
    (sending.status.initDone = true ∧ sending.status.txBusy = true) := by decide

theorem witness_IdenticalRecordsSendIdenticalFrames :
    (armed 10).outrec = (armed 3).outrec ∧ (armed 10).status.initDone = true ∧ (armed 10).status.txBusy = false ∧
    (armed 3).status.initDone = true ∧ (armed 3).status.txBusy = false ∧
    exec .send (armed 10) = .next (transmit Config.hw (armed 10)) ∧
    exec .send (armed 3) = .next (transmit Config.hw (armed 3)) := ⟨rfl, rfl, rfl, rfl, rfl, rfl, rfl⟩

theorem witness_ValidateReportsTheCrcCheck : ∃ w0 w1 w2 : Word,
    w0 = fresh.rxbuf.read 3 ++ fresh.rxbuf.read 2 ++ fresh.rxbuf.read 1 ++ fresh.rxbuf.read 0 ∧
    w1 = fresh.rxbuf.read 7 ++ fresh.rxbuf.read 6 ++ fresh.rxbuf.read 5 ++ fresh.rxbuf.read 4 ∧
    w2 = fresh.rxbuf.read 11 ++ fresh.rxbuf.read 10 ++ fresh.rxbuf.read 9 ++ fresh.rxbuf.read 8 :=
  ⟨_, _, _, rfl, rfl, rfl⟩

/-- The hypotheses on the state, then those of the three clauses, each with its frame; the words are those the
statement names. -/
theorem witness_DecodeTakesThePendingFrame :
    (∀ m, (pendingOf m).status.initDone = true ∧ (pendingOf m).status.rxPending = true ∧ (pendingOf m).rxHold = false) ∧
    (∃ w0 w1 w2 c : Word,
      w0 = goodFrame.read 3 ++ goodFrame.read 2 ++ goodFrame.read 1 ++ goodFrame.read 0 ∧
      w1 = goodFrame.read 7 ++ goodFrame.read 6 ++ goodFrame.read 5 ++ goodFrame.read 4 ∧
      w2 = goodFrame.read 11 ++ goodFrame.read 10 ++ goodFrame.read 9 ++ goodFrame.read 8 ∧
      c = goodFrame.read 15 ++ goodFrame.read 14 ++ goodFrame.read 13 ++ goodFrame.read 12 ∧
      goodFrame.read 0 = Config.hw.rxSof ∧ Config.hw.crcWords [w0, w1, w2] = c) ∧
    badMarkerFrame.read 0 ≠ Config.hw.rxSof ∧
    (∃ w0 w1 w2 c : Word,
      w0 = badCrcFrame.read 3 ++ badCrcFrame.read 2 ++ badCrcFrame.read 1 ++ badCrcFrame.read 0 ∧
      w1 = badCrcFrame.read 7 ++ badCrcFrame.read 6 ++ badCrcFrame.read 5 ++ badCrcFrame.read 4 ∧
      w2 = badCrcFrame.read 11 ++ badCrcFrame.read 10 ++ badCrcFrame.read 9 ++ badCrcFrame.read 8 ∧
      c = badCrcFrame.read 15 ++ badCrcFrame.read 14 ++ badCrcFrame.read 13 ++ badCrcFrame.read 12 ∧
      badCrcFrame.read 0 = Config.hw.rxSof ∧ Config.hw.crcWords [w0, w1, w2] ≠ c) :=
  ⟨fun _ => ⟨rfl, rfl, rfl⟩,
   ⟨le32 goodFrame 0, le32 goodFrame 4, le32 goodFrame 8, crcField goodFrame, le32_eq_append _ _ _, le32_eq_append _ _ _,
    le32_eq_append _ _ _, le32_eq_append _ _ _, goodFrame_marker, goodFrame_crc⟩,
   badMarkerFrame_marker,
   ⟨le32 badCrcFrame 0, le32 badCrcFrame 4, le32 badCrcFrame 8, crcField badCrcFrame, le32_eq_append _ _ _,
    le32_eq_append _ _ _, le32_eq_append _ _ _, le32_eq_append _ _ _, badCrcFrame_marker, badCrcFrame_crc⟩⟩

theorem witness_DecodeNotEnabledChangesNothing :
    fresh.status.initDone = false ∧ (armed 10).status.rxPending = false ∧
    { pendingOf goodFrame with rxHold := true }.rxHold = true := ⟨rfl, rfl, rfl⟩

/-- LINK_CNT at 1 and on both sides of it. -/
theorem witness_TickCountsDownAndExpires :
    fresh.status.initDone = false ∧ ((armed 2).status.initDone = true ∧ (armed 2).linkCnt ≠ 1) ∧
    ({ armed 2 with linkCnt := 0 }.status.initDone = true ∧ { armed 2 with linkCnt := 0 }.linkCnt ≠ 1) ∧
    ((armed 1).status.initDone = true ∧ (armed 1).linkCnt = 1) := by decide

/-- Lengths 15, 16 and 17. -/
theorem witness_RxArriveStoresTheFrame :
    (frameA.length = 16 ∧ (armed 10).status.initDone = true) ∧ (frameA.length = 16 ∧ fresh.status.initDone = false) ∧
    ((frameA.take 15).length ≠ 16 ∧ (0 :: frameA).length ≠ 16) := by decide

theorem witness_SecondArrivalReplacesThePendingFrame :
    exec (.rxArrive frameA) (armed 10) = .next (frameArrived frameA (armed 10)) := rfl

theorem witness_TxDoneClearsBusy : fresh.status.txBusy = false := rfl

/-- One offset of each disjunct, the first and the last among them; the disjuncts name different offsets. -/
theorem witness_RegisterReadsReturnTheRegisters :
    ((0x00 : BitVec 8) = 0x00 ∧ (0 : Word) = (if fresh.rxHold then 1 else 0)) ∧
    ((0x58 : BitVec 8) = 0x58 ∧ (0 : Word) =
      fresh.rxbuf.read 15 ++ fresh.rxbuf.read 14 ++ fresh.rxbuf.read 13 ++ fresh.rxbuf.read 12) ∧
    [0x00, 0x04, 0x08, 0x0C, 0x10, 0x14, 0x18, 0x1C, 0x20, 0x24, 0x28, 0x2C, 0x30, 0x34, 0x38, 0x3C, 0x40, 0x44, 0x48,
      0x4C, 0x50, 0x54, (0x58 : BitVec 8)].Nodup := by decide

theorem witness_BadReadsRaiseBadAccess :
    ((0x01 : BitVec 8).toNat % 4 ≠ 0 ∧ (0x5B : BitVec 8).toNat % 4 ≠ 0) ∧
    (0x5C ≤ (0x5C : BitVec 8).toNat ∧ 0x5C ≤ (0xFF : BitVec 8).toNat) := by decide

/-- A read-only, a misaligned and an unmapped offset. -/
theorem witness_OtherWritesRaiseBadAccess : ∀ o ∈ [(0x04 : BitVec 8), 0x01, 0x5C, 0xFF],
    o ≠ 0x00 ∧ o ≠ 0x0C ∧ o ≠ 0x10 ∧ o ≠ 0x2C ∧ o ≠ 0x30 ∧ o ≠ 0x34 := by decide

theorem witness_WrittenRegistersReadBackAsWritten :
    (∃ t, exec (.regWr 0x10 0xFFFFFFFF) fresh = .next t) ∧ (∃ t, exec (.regWr 0x2C 0x80000001) fresh = .next t) ∧
    (∃ t, exec (.regWr 0x30 0) fresh = .next t) ∧ ∃ t, exec (.regWr 0x34 0x7FC00000) fresh = .next t :=
  ⟨⟨_, rfl⟩, ⟨_, rfl⟩, ⟨_, rfl⟩, ⟨_, rfl⟩⟩

theorem witness_CmdWriteRunsTheCommand :
    (∀ c ∈ [(0x80 : Word), 0x84], 0x80 ≤ c.toNat ∧ c.toNat ≤ 0x84) ∧
    ∀ c ∈ [(0 : Word), 6, 0x7F, 0x85, 0x101, 0xFFFFFFFF],
      c.toNat = 0 ∨ (6 ≤ c.toNat ∧ c.toNat ≤ 0x7F) ∨ 0x85 ≤ c.toNat := by simp

theorem witness_StatusWordPlacesTheFlags : 7 ≤ 7 ∧ 7 ≤ 31 := by decide

/-- An erring write and an erring read. -/
theorem witness_AnErrorIsTheOnlyEffect :
    (exec .send fresh = .next (fresh.raiseError .notInit) ∧ (fresh.raiseError .notInit).faults ≠ fresh.faults) ∧
    (exec (.regRd 0x5C) fresh = .next ((fresh.raiseError .badAccess).answer 0) ∧
      ((fresh.raiseError .badAccess).answer 0).faults ≠ fresh.faults) :=
  ⟨⟨rfl, by decide⟩, ⟨rfl, by decide⟩⟩

theorem witness_OnlySendRaisesNotInit :
    fresh.status.initDone = false ∧
    (exec (.regWr 0x0C 3) fresh = .next (fresh.raiseError .notInit) ∧
      (fresh.raiseError .notInit).faults = fresh.faults ++ [.notInit]) := ⟨rfl, rfl, rfl⟩

theorem witness_DecodeInvertsEncode : ∀ i ∈ [Instr.init, .pack, .send, .validate, .clrerr, .decode, .tick, .rxArrive frameA,
    .txDone, .reset, .regRd 0x00, .regRd 0xFC, .regWr 0x0C 0, .regWr 0x0C 6, .regWr 0xFC 0xFFFFFFFF],
    i.wellFormed = true := by decide

theorem witness_DecodedInstructionsAreWellFormed :
    decode (.bus 0x5FC 0) = .ok (.regWr 0xFC 0) ∧ ∀ bytes, Instr.regWr 0xFC 0 ≠ .rxArrive bytes :=
  ⟨rfl, fun _ => nofun⟩

theorem witness_StepRunsTheDecodedTransaction :
    { fresh with schedule := [Script.evTick] }.schedule = Script.evTick :: [] ∧ decode Script.evTick = .ok .tick :=
  ⟨rfl, rfl⟩

/-- A 16-bit read, a reserved size, a misaligned 32-bit write. -/
theorem witness_MalformedBusTransactionRaisesBadAccess :
    ∀ d ∈ [(0x210 : BitVec 11), 0x610, 0x501],
      { fresh with schedule := [.bus d 0] }.schedule = .bus d 0 :: [] ∧
      (d.extractLsb' 9 2 ≠ 0b10 ∨ (d.extractLsb' 0 8).toNat % 4 ≠ 0) := by decide

theorem witness_IdleStepIsTheReceiveService : fresh.schedule = [] ∧ decodeEnabled fresh = false := ⟨rfl, rfl⟩

/-- An armed block to which one frame is still to be delivered. -/
def arriving : State := { armed 10 with schedule := [Script.evRx frameA] }

theorem step_arriving : step arriving = .next (frameArrived frameA (armed 10)) := rfl

theorem witness_PendingFrameIsTakenInTheEnd :
    Sys2Proof.core.run arriving.schedule.length arriving = .next (frameArrived frameA (armed 10)) ∧
    decodeEnabled (frameArrived frameA (armed 10)) = true := by
  refine ⟨?_, rfl⟩
  have hs : Sys2Proof.core.step arriving = .next (frameArrived frameA (armed 10)) := step_arriving
  have hl : arriving.schedule.length = 1 := rfl
  simp only [hl, Host.Core.run, hs]

/-- One operation for each store: RXBUF, TXBUF, INREC, OUTREC, LINK_CNT, LINK_THR. -/
theorem witness_WritersOfEachStore :
    (exec (.rxArrive frameA) (armed 10) = .next (frameArrived frameA (armed 10)) ∧
      (frameArrived frameA (armed 10)).rxbuf ≠ (armed 10).rxbuf) ∧
    (exec .pack { fresh with outrec := recordA } = .next (packFn Config.hw { fresh with outrec := recordA }) ∧
      (packFn Config.hw { fresh with outrec := recordA }).txbuf ≠ { fresh with outrec := recordA }.txbuf) ∧
    (exec .decode (pendingOf goodFrame) =
        .next (acceptRecord (frameRecord goodFrame) (takePending Config.hw (pendingOf goodFrame))) ∧
      (acceptRecord (frameRecord goodFrame) (takePending Config.hw (pendingOf goodFrame))).inrec ≠
        (pendingOf goodFrame).inrec) ∧
    (exec (.regWr 0x30 1) fresh = .next { fresh with outrec := { fresh.outrec with pitch := 1 } } ∧
      { fresh with outrec := { fresh.outrec with pitch := 1 } }.outrec ≠ fresh.outrec) ∧
    (exec .tick (armed 10) = .next { armed 10 with linkCnt := 9 } ∧
      { armed 10 with linkCnt := 9 }.linkCnt ≠ (armed 10).linkCnt) ∧
    (exec .init fresh = .next (initState fresh) ∧ (initState fresh).linkThr ≠ fresh.linkThr) := by
  refine ⟨⟨rfl, by decide⟩, ⟨rfl, fun h => ?_⟩, ⟨decode_pendingGood, fun h => ?_⟩, ⟨rfl, by decide⟩, ⟨rfl, by decide⟩,
    ⟨rfl, by decide⟩⟩
  · have := congrArg (fun m => Memory.read m 1) h
    simp only [packFn_txbuf] at this
    rw [packFrame_read_prefix _ _ _ (by decide), packPrefix_read] at this
    exact absurd this (by decide)
  · have := congrArg InRec.fire h
    simp only [acceptRecord_inrec, frameRecord] at this
    rw [goodFrame, packFrame_read_prefix _ _ _ (by decide), packPrefix_read] at this
    exact absurd this (by decide)

/-- VALID_RESULT still set from an earlier frame, the buffer holding one with a bad CRC. -/
def validatedBad : State := { fresh with rxbuf := badCrcFrame, status := fresh.status.setValidResult true }

/-- One operation for each way a field is set or cleared, in the order of the clauses. -/
theorem witness_StatusFieldsChangeOnlyAsTheTableSays :
    (exec .init fresh = .next (initState fresh) ∧ fresh.status.initDone = false ∧
      (initState fresh).status.initDone = true) ∧
    (exec .reset (armed 10) = .next (resetUnder Config.hw (armed 10)) ∧ (armed 10).status.initDone = true ∧
      (resetUnder Config.hw (armed 10)).status.initDone = false) ∧
    (exec .decode (pendingOf goodFrame) =
        .next (acceptRecord (frameRecord goodFrame) (takePending Config.hw (pendingOf goodFrame))) ∧
      (pendingOf goodFrame).status.inrecValid = false ∧
      (acceptRecord (frameRecord goodFrame) (takePending Config.hw (pendingOf goodFrame))).status.inrecValid = true ∧
      (pendingOf goodFrame).status.rxPending = true ∧
      (acceptRecord (frameRecord goodFrame) (takePending Config.hw (pendingOf goodFrame))).status.rxPending = false) ∧
    (exec .tick (armed 1) = .next (tickState (armed 1)) ∧ (armed 1).status.stale = false ∧
      (tickState (armed 1)).status.stale = true ∧
      exec .reset (tickState (armed 1)) = .next (resetUnder Config.hw (tickState (armed 1))) ∧
      (resetUnder Config.hw (tickState (armed 1))).status.stale = false) ∧
    (exec .send (armed 10) = .next (transmit Config.hw (armed 10)) ∧ (armed 10).status.txBusy = false ∧
      (transmit Config.hw (armed 10)).status.txBusy = true) ∧
    (exec .txDone sending = .next (armed 10) ∧ sending.status.txBusy = true ∧ (armed 10).status.txBusy = false) ∧
    (exec (.rxArrive frameA) (armed 10) = .next (frameArrived frameA (armed 10)) ∧
      (armed 10).status.rxPending = false ∧ (frameArrived frameA (armed 10)).status.rxPending = true) ∧
    (exec .validate { fresh with rxbuf := goodFrame } = .next (validateUnder Config.hw { fresh with rxbuf := goodFrame }) ∧
      fresh.status.validResult = false ∧
      (validateUnder Config.hw { fresh with rxbuf := goodFrame }).status.validResult = true) ∧
    (exec .validate validatedBad = .next (validateUnder Config.hw validatedBad) ∧
      validatedBad.status.validResult = true ∧ (validateUnder Config.hw validatedBad).status.validResult = false) ∧
    (exec .send fresh = .next (fresh.raiseError .notInit) ∧ fresh.status.err = false ∧
      (fresh.raiseError .notInit).status.err = true) ∧
    (exec (.regRd 0x5C) fresh = .next ((fresh.raiseError .badAccess).answer 0) ∧
      ((fresh.raiseError .badAccess).answer 0).status.err = true) ∧
    (exec .clrerr (fresh.raiseError .notInit) = .next (fresh.raiseError .notInit).clearError ∧
      (fresh.raiseError .notInit).status.err = true ∧ (fresh.raiseError .notInit).clearError.status.err = false) := by
  refine ⟨⟨rfl, rfl, rfl⟩, ⟨rfl, rfl, rfl⟩, ⟨decode_pendingGood, rfl, rfl, rfl, rfl⟩, ⟨rfl, rfl, rfl, rfl, rfl⟩,
    ⟨rfl, rfl, rfl⟩, ⟨rfl, rfl, rfl⟩, ⟨rfl, rfl, rfl⟩, ⟨rfl, rfl, ?_⟩, ⟨rfl, rfl, ?_⟩, ⟨rfl, rfl, rfl⟩, ⟨rfl, rfl⟩,
    ⟨rfl, rfl, rfl⟩⟩
  · exact beq_iff_eq.mpr goodFrame_crc
  · exact beq_eq_false_iff_ne.mpr badCrcFrame_crc

/-- A dropped frame. -/
theorem witness_OnlyADecodeSuccessReloads :
    exec .decode (pendingOf badMarkerFrame) = .next (decodeUnder Config.hw (pendingOf badMarkerFrame)) ∧
    (pendingOf badMarkerFrame).status.initDone = true ∧ Instr.decode ≠ .tick ∧ Instr.decode ≠ .reset ∧
    (Instr.decode = .decode → decodeSucceeds Config.hw (pendingOf badMarkerFrame) = false) := by
  refine ⟨rfl, rfl, nofun, nofun, fun _ => ?_⟩
  have h : sentinelMatches Config.hw (pendingOf badMarkerFrame).rxbuf = false := by
    simpa [sentinelMatches, pendingOf] using badMarkerFrame_marker
  simp [decodeSucceeds, h]

/-- An arrival and a DECODE under hold. -/
theorem witness_HoldKeepsTheInboundRecord :
    { armed 10 with rxHold := true }.rxHold = true ∧
    (∀ i ∈ [Instr.rxArrive frameA, .decode], i ≠ .reset ∧ ∀ v, i ≠ .regWr 0x00 v) ∧
    runInstrs [.rxArrive frameA, .decode] { armed 10 with rxHold := true } =
      .next (frameArrived frameA { armed 10 with rxHold := true }) := by
  refine ⟨rfl, by simp, rfl⟩

theorem witness_OnlyReadsAnswerTheHost :
    exec (.regRd 0x10) fresh = .next (fresh.answer 10) ∧ exec .tick fresh = .next fresh := ⟨rfl, rfl⟩

theorem witness_HistoryOnlyGrows :
    step { armed 1 with schedule := [Script.evTick] } = .next (tickState (armed 1)) := rfl

theorem witness_UnheldReadsMayTear :
    (pendingOf goodFrame).status.initDone = true ∧ (pendingOf goodFrame).status.rxPending = true ∧
    (pendingOf goodFrame).rxHold = false ∧ (pendingOf goodFrame).rxbuf.read 0 = Config.hw.rxSof ∧
    crcOf Config.hw (pendingOf goodFrame).rxbuf = crcField (pendingOf goodFrame).rxbuf :=
  ⟨rfl, rfl, rfl, goodFrame_marker, goodFrame_crc⟩

/-- Three ticks over a threshold of 2, with a command between. -/
theorem witness_OneExpiryPerThresholdOfTicks :
    (armed 2).status.initDone = true ∧ (armed 2).linkThr ≠ 0 ∧ (armed 2).linkCnt = (armed 2).linkThr ∧
    NoReload [.tick, .clrerr, .tick, .tick] (armed 2) ∧
    runInstrs [.tick, .clrerr, .tick, .tick] (armed 2) = .next (tickState (tickState (tickState (armed 2)).clearError)) := by
  refine ⟨rfl, by decide, rfl, ?_, rfl⟩
  refine ⟨nofun, nofun, fun t _ => ⟨nofun, nofun, fun t _ => ⟨nofun, nofun, fun t _ => ⟨nofun, nofun, fun t _ => trivial⟩⟩⟩⟩

theorem witness_PackedFrameUnpacksToTheRecord :
    { fresh with outrec := goodRecord }.status.txBusy = false ∧
    { fresh with outrec := goodRecord }.outrec.sof = Config.hw.rxSof ∧
    exec .pack { fresh with outrec := goodRecord } = .next (packFn Config.hw { fresh with outrec := goodRecord }) :=
  ⟨rfl, rfl, rfl⟩

theorem witness_DeliveredFrameDecodesToTheRecord :
    { fresh with outrec := goodRecord }.status.txBusy = false ∧
    { fresh with outrec := goodRecord }.outrec.sof = Config.hw.rxSof ∧
    exec .pack { fresh with outrec := goodRecord } = .next (packFn Config.hw { fresh with outrec := goodRecord }) ∧
    (armed 10).status.initDone = true ∧ (armed 10).rxHold = false ∧
    ∃ u, runInstrs [.rxArrive (packFn Config.hw { fresh with outrec := goodRecord }).txbuf.bytes, .decode] (armed 10) =
      .next u := by
  refine ⟨rfl, rfl, rfl, rfl, rfl, ?_⟩
  generalize hb : (packFn Config.hw { fresh with outrec := goodRecord }).txbuf.bytes = bytes
  have hl : bytes.length = 16 := hb ▸ rfl
  refine ⟨decodeUnder Config.hw (frameArrived bytes (armed 10)), ?_⟩
  simp only [runInstrs, exec, execRxArrive, hl, if_true, execDecode]

/-- Parameters whose primitive, the exclusive or of the words, has CRC_SINGLE_BIT. -/
def xorConfiguration : Config := { testConfiguration with crcWords := fun ws => ws.foldl (· ^^^ ·) 0 }

theorem xorConfiguration_single_bit : CrcSingleBit xorConfiguration.crcWords := by
  intro m a j hm ha h
  have out := le32_write_outside hm a (m.read a ^^^ (1#8 <<< j.val))
  have ins := fun o ho hi => le32_write_inside hm a (m.read a ^^^ (1#8 <<< j.val)) o ho hi (flip_ne _ j)
  simp only [xorConfiguration, crcWordList, List.foldl] at h
  by_cases h0 : a.val ≤ 3
  · rw [out 4 _ (by omega), out 8 _ (by omega)] at h
    exact ins 0 (by decide) (by omega) (by simpa using h)
  · by_cases h4 : a.val ≤ 7
    · rw [out 0 _ (by omega), out 8 _ (by omega)] at h
      exact ins 4 (by decide) (by omega) (by simpa using h)
    · rw [out 0 _ (by omega), out 4 _ (by omega)] at h
      exact ins 8 (by decide) (by omega) (by simpa using h)

/-- The first and the last bit of the prefix of a packed frame. -/
theorem witness_OneFlippedBitIsDropped :
    CrcSingleBit xorConfiguration.crcWords ∧ (packFrame xorConfiguration recordA).wf ∧ (0 : FrameAddr).val < 12 ∧
    (11 : FrameAddr).val < 12 ∧
    crcOf xorConfiguration (packFrame xorConfiguration recordA) = crcField (packFrame xorConfiguration recordA) ∧
    ∀ (a : FrameAddr) (j : Fin 8),
      (pendingOf ((packFrame xorConfiguration recordA).write a
        ((packFrame xorConfiguration recordA).read a ^^^ (1#8 <<< j.val)))).rxbuf =
      (packFrame xorConfiguration recordA).write a ((packFrame xorConfiguration recordA).read a ^^^ (1#8 <<< j.val)) :=
  ⟨xorConfiguration_single_bit, packFrame_wf _ _, by decide, by decide, by rw [crcOf_packFrame, crcField_packFrame],
    fun _ _ => rfl⟩

/-! #### The invariants: a state that meets each in a case that says something, and its step -/

theorem witness_StepKeepsBuffersCanonical :
    { fresh with txbuf := goodFrame }.BuffersCanonical ∧ ∃ t, step { fresh with txbuf := goodFrame } = .next t :=
  ⟨⟨goodFrame_wf, Memory.wf_nil⟩, _, rfl⟩

theorem witness_StepKeepsSupervisorBounded :
    { armed 1 with schedule := [Script.evTick] }.SupervisorBounded ∧
    step { armed 1 with schedule := [Script.evTick] } = .next (tickState (armed 1)) := by
  have hd : (armed 1#32).status.initDone = true := rfl
  have hc : (armed 1#32).linkCnt = 1 := rfl
  have ht : (armed 1#32).linkThr = 1 := rfl
  exact ⟨by simp [State.SupervisorBounded, hd, hc, ht], rfl⟩

theorem witness_StepKeepsLatchConsistent :
    (fresh.raiseError .notInit).LatchConsistent ∧ ∃ t, step (fresh.raiseError .notInit) = .next t :=
  ⟨⟨by decide, fun _ => ⟨.notInit, by decide, by decide⟩, rfl⟩, _, rfl⟩

theorem witness_StepKeepsQuietBeforeInit :
    { fresh with schedule := [Script.evRx frameA] }.QuietBeforeInit ∧
    step { fresh with schedule := [Script.evRx frameA] } = .next fresh :=
  ⟨fun _ => ⟨rfl, rfl, rfl, rfl, rfl⟩, rfl⟩

theorem witness_StepKeepsTheFrameInFlight :
    { sending with hist := [.txSend goodFrame.bytes], txbuf := goodFrame }.TransmitHeld ∧
    ∃ t, step { sending with hist := [.txSend goodFrame.bytes], txbuf := goodFrame } = .next t :=
  ⟨fun _ => rfl, _, rfl⟩

theorem witness_StepKeepsOutboundSound :
    { fresh with txbuf := goodFrame, outrecCrc := crcField goodFrame }.OutboundSound ∧
    ∃ t, step { fresh with txbuf := goodFrame, outrecCrc := crcField goodFrame } = .next t :=
  ⟨⟨rfl, .inl goodFrame_crc.symm⟩, _, rfl⟩

theorem witness_StepKeepsInboundSound :
    { armed 10 with
      inrec := { sof := Config.hw.rxSof, fire := 3, pitch := 0x3FC00000, yaw := 0xBF000000, rsvd := 0,
                 crc := crcOf Config.hw (packPrefix goodRecord) }
      status := (armed 10).status.afterDecodeSuccess }.InboundSound ∧
    ∃ t, step { armed 10 with
      inrec := { sof := Config.hw.rxSof, fire := 3, pitch := 0x3FC00000, yaw := 0xBF000000, rsvd := 0,
                 crc := crcOf Config.hw (packPrefix goodRecord) }
      status := (armed 10).status.afterDecodeSuccess } = .next t :=
  ⟨⟨fun _ => ⟨rfl, rfl⟩, nofun⟩, _, rfl⟩

/-- INIT and a tick still to come. -/
def booting : List Transaction := [Script.cmdInit, Script.evTick]

theorem step_booting : step { State.reset with schedule := booting } =
    .next (initState { State.reset with schedule := [Script.evTick] }) := rfl

theorem witness_EveryInterleavingKeepsEveryInvariant :
    Sys2Proof.core.run 1 { State.reset with schedule := booting } =
      .next (initState { State.reset with schedule := [Script.evTick] }) := by
  have hs : Sys2Proof.core.step { State.reset with schedule := booting } =
    .next (initState { State.reset with schedule := [Script.evTick] }) := step_booting
  simp only [Host.Core.run, hs]

end Sys2Proof.Tests
end

section
/-! Proofs of the statements of 10_state.md: the start state, the STATUS word and its fields, the registers that read back
as written, the error latch, and HIST and FAULTS. -/

namespace Sys2Proof.Machine

/-! ### The error sequence and what is recorded (10_state.md R43, 60_exceptions.md R223) -/

/-- `t` extends the record of `s`: some events were appended to HIST, and to FAULTS the codes their ErrorRaised carry. -/
def State.RecordsFrom (s t : State) : Prop :=
  ∃ es, t.hist = s.hist ++ es ∧ t.faults = s.faults ++ es.filterMap Event.error

/-- Events that carry no error leave FAULTS as it is. -/
theorem State.RecordsFrom.of_events {s t : State} {es : List Event} (hh : t.hist = s.hist ++ es)
    (hes : es.filterMap Event.error = []) (hf : t.faults = s.faults) : s.RecordsFrom t :=
  ⟨es, hh, by simp [hes, hf]⟩

theorem State.RecordsFrom.of_eq {s t : State} (hh : t.hist = s.hist) (hf : t.faults = s.faults) : s.RecordsFrom t :=
  .of_events (hh.trans (List.append_nil _).symm) rfl hf

theorem State.RecordsFrom.trans {s t u : State} (h : s.RecordsFrom t) (h' : t.RecordsFrom u) : s.RecordsFrom u := by
  obtain ⟨es, hh, hf⟩ := h
  obtain ⟨es', hh', hf'⟩ := h'
  exact ⟨es ++ es', by simp [hh', hh], by simp [hf', hf]⟩

theorem State.recordsFrom_raiseError (c : ErrCode) (s : State) : s.RecordsFrom (s.raiseError c) :=
  ⟨[.errorRaised c], rfl, rfl⟩

theorem State.recordsFrom_answer (v : Word) (s : State) : s.RecordsFrom (s.answer v) := .of_eq rfl rfl

theorem State.RecordsFrom.hist_prefix {s t : State} (h : s.RecordsFrom t) : s.hist <+: t.hist := by
  obtain ⟨es, hh, -⟩ := h
  exact ⟨es, hh.symm⟩

theorem State.RecordsFrom.faults_prefix {s t : State} (h : s.RecordsFrom t) : s.faults <+: t.faults := by
  obtain ⟨es, -, hf⟩ := h
  exact ⟨_, hf.symm⟩

/-- An access the block turns away raises BAD_ACCESS, and answers 0 if it is a read (20_memory.md R54). -/
theorem refuseAccess_cases (d : BitVec 11) (s : State) :
    refuseAccess d s = s.raiseError .badAccess ∨ refuseAccess d s = (s.raiseError .badAccess).answer 0 := by
  unfold refuseAccess
  split
  · exact .inl rfl
  · exact .inr rfl

theorem recordsFrom_refuseAccess (d : BitVec 11) (s : State) : s.RecordsFrom (refuseAccess d s) := by
  have hr := s.recordsFrom_raiseError .badAccess
  obtain h | h := refuseAccess_cases d s <;> rw [h]
  · exact hr
  · exact hr.trans (State.recordsFrom_answer _ _)

/-- Every operation only appends to HIST and FAULTS, and to FAULTS just the codes of the errors it appends to HIST. -/
theorem Effect.recordsFrom {i : Instr} {s t : State} (e : Effect i s t) : s.RecordsFrom t := by
  cases e with
  | raised c _ => exact s.recordsFrom_raiseError c
  | readRefused _ => exact (s.recordsFrom_raiseError _).trans (State.recordsFrom_answer _ _)
  | packed _ _ => exact .of_events (packFn_hist _ _) rfl rfl
  | sent _ _ _ => exact .of_events ((transmit_hist _ _).trans (List.append_assoc _ _ _)) rfl rfl
  | validated _ => exact .of_events rfl rfl rfl
  | accepted _ _ _ => exact .of_events rfl (unpackEvents_error _ _) rfl
  | dropped _ _ => exact .of_events rfl (unpackEvents_error _ _) rfl
  | expired _ _ => exact .of_events ((expire_hist _).trans (List.append_assoc _ _ _)) rfl rfl
  | _ => exact .of_eq rfl rfl

theorem step_recordsFrom {s t : State} (h : step s = .next t) : s.RecordsFrom t :=
  step_keeps s.RecordsFrom (fun _ _ hp => hp) (fun u d hp => hp.trans (recordsFrom_refuseAccess d u))
    (fun _ _ _ hp e => hp.trans e.recordsFrom) (.of_eq rfl rfl) h

/-- Settles O40: every step extends the record of the state before it. -/
theorem historyOnlyGrows : Obligations.HistoryOnlyGrows := by
  intro s t h
  have hr := step_recordsFrom h
  exact ⟨hr.hist_prefix, hr.faults_prefix⟩

/-! ### The error latch (10_state.md R31, R35) -/

/-- What an operation does to the latch: it raises one error and does nothing else (but for the 0 a refused read answers),
it clears the latch, or it leaves the latch alone. -/
theorem Effect.latch_cases {i : Instr} {s t : State} (e : Effect i s t) :
    (∃ c, t = s.raiseError c ∨ ((∃ o, i = .regRd o) ∧ t = (s.raiseError c).answer 0)) ∨
    ((Issues i .clrerr ∨ i = .reset) ∧ t.status.err = false ∧ t.errcode = 0) ∨
    (t.status.err = s.status.err ∧ t.errcode = s.errcode) := by
  cases e with
  | raised c _ => exact .inl ⟨c, .inl rfl⟩
  | readRefused _ => exact .inl ⟨_, .inr ⟨⟨_, rfl⟩, rfl⟩⟩
  | cleared hi => exact .inr (.inl ⟨.inl hi, rfl, rfl⟩)
  | reset => exact .inr (.inl ⟨.inr rfl, rfl, rfl⟩)
  | _ => exact .inr (.inr ⟨rfl, rfl⟩)

theorem ErrCode.bits_ne_zero (c : ErrCode) : c.bits ≠ 0 := by cases c <;> decide

/-- The first error fills the latch, a later one leaves it filled (10_state.md R35). -/
theorem latchFirst_ne_zero (held : BitVec 4) (c : ErrCode) : latchFirst held c ≠ 0 := by
  unfold latchFirst
  split
  · exact c.bits_ne_zero
  · assumption

/-- FAULTS keeps listing the errors of HIST as both grow. -/
theorem State.RecordsFrom.faults_eq {s t : State} (h : s.RecordsFrom t)
    (hs : s.faults = s.hist.filterMap Event.error) : t.faults = t.hist.filterMap Event.error := by
  obtain ⟨es, hh, hf⟩ := h
  rw [hf, hh, List.filterMap_append, hs]

theorem State.LatchConsistent.raiseError {s : State} (h : s.LatchConsistent) (c : ErrCode) :
    (s.raiseError c).LatchConsistent := by
  obtain ⟨-, hcode, hfaults⟩ := h
  refine ⟨iff_of_true rfl (latchFirst_ne_zero _ _), fun _ => ?_, (s.recordsFrom_raiseError c).faults_eq hfaults⟩
  simp only [State.raiseError_faults, State.raiseError_errcode, latchFirst]
  split
  · exact ⟨c, by simp, rfl⟩
  · next hheld =>
    obtain ⟨c', hmem, hbits⟩ := hcode hheld
    exact ⟨c', by simp [hmem], hbits⟩

theorem State.LatchConsistent.answer {s : State} (h : s.LatchConsistent) (v : Word) : (s.answer v).LatchConsistent := h

theorem State.LatchConsistent.refuseAccess {s : State} (h : s.LatchConsistent) (d : BitVec 11) :
    (refuseAccess d s).LatchConsistent := by
  obtain h' | h' := refuseAccess_cases d s <;> rw [h']
  · exact h.raiseError _
  · exact (h.raiseError _).answer 0

/-- A latch left alone stays consistent while HIST and FAULTS grow: a code once in FAULTS stays there. -/
theorem State.LatchConsistent.of_latch_eq {s t : State} (h : s.LatchConsistent) (herr : t.status.err = s.status.err)
    (hcode : t.errcode = s.errcode) (hr : s.RecordsFrom t) : t.LatchConsistent := by
  obtain ⟨hiff, hraised, hfaults⟩ := h
  refine ⟨by rw [herr, hcode, hiff], fun hne => ?_, hr.faults_eq hfaults⟩
  obtain ⟨c, hmem, hbits⟩ := hraised (hcode ▸ hne)
  exact ⟨c, hr.faults_prefix.subset hmem, hbits.trans hcode.symm⟩

theorem State.LatchConsistent.of_cleared {s t : State} (h : s.LatchConsistent) (herr : t.status.err = false)
    (hcode : t.errcode = 0) (hr : s.RecordsFrom t) : t.LatchConsistent := by
  obtain ⟨-, -, hfaults⟩ := h
  exact ⟨by simp [herr, hcode], fun hne => absurd hcode hne, hr.faults_eq hfaults⟩

theorem Effect.latchConsistent {i : Instr} {s t : State} (e : Effect i s t) (h : s.LatchConsistent) :
    t.LatchConsistent := by
  obtain ⟨c, rfl | ⟨-, rfl⟩⟩ | ⟨-, herr, hcode⟩ | ⟨herr, hcode⟩ := e.latch_cases
  · exact h.raiseError c
  · exact (h.raiseError c).answer 0
  · exact h.of_cleared herr hcode e.recordsFrom
  · exact h.of_latch_eq herr hcode e.recordsFrom

/-- Settles O50: raising, clearing and leaving the latch alone each keep it consistent. -/
theorem stepKeepsLatchConsistent : Obligations.StepKeepsLatchConsistent := fun _ _ hs h =>
  step_keeps State.LatchConsistent (fun _ _ hp => hp) (fun _ d hp => hp.refuseAccess d)
    (fun _ _ _ hp e => e.latchConsistent hp) hs h

/-! ### Registers that read back as written (10_state.md R28, R32, R33) -/

/-- The three fields of a header word put together again. -/
theorem headerWord_split (v : Word) :
    headerWord (v.extractLsb' 0 8) (v.extractLsb' 8 8) (v.extractLsb' 16 16) = v := by
  refine BitVec.eq_of_getLsbD_eq fun i hi => ?_
  unfold headerWord
  interval_cases i <;> simp

@[simp] theorem OutRec.hdr_withHdr (r : OutRec) (v : Word) : (r.withHdr v).hdr = v := headerWord_split v

theorem exec_regRd_mapped {o : BitVec 8} {r : Reg} (hr : regAt o = some r) (s : State) :
    exec (.regRd o) s = .next (s.answer (regValue s r)) := by
  simp only [exec, execRegRd, hr]

theorem exec_regWr_mapped {o : BitVec 8} {r : Reg} (hr : regAt o = some r) (v : Word) (s : State) :
    exec (.regWr o v) s = writeReg r v s := by
  simp only [exec, execRegWr, hr]

/-- The register at `o` holds the word written to it. -/
theorem regValue_after_regWr {o : BitVec 8} (ho : o = 0x10 ∨ o = 0x2C ∨ o = 0x30 ∨ o = 0x34) {v : Word} {s t : State}
    (h : exec (.regWr o v) s = .next t) : ∃ r, regAt o = some r ∧ regValue t r = v := by
  obtain rfl | rfl | rfl | rfl := ho
  · rw [exec_regWr_mapped (r := .threshold) rfl] at h
    cases h
    exact ⟨_, rfl, rfl⟩
  · rw [exec_regWr_mapped (r := .outrecHdr) rfl] at h
    cases h
    exact ⟨_, rfl, OutRec.hdr_withHdr _ v⟩
  · rw [exec_regWr_mapped (r := .outrecPitch) rfl] at h
    cases h
    exact ⟨_, rfl, rfl⟩
  · rw [exec_regWr_mapped (r := .outrecYaw) rfl] at h
    cases h
    exact ⟨_, rfl, rfl⟩

/-- Settles O20: a read answers the register's word, which the write has set. -/
theorem writtenRegistersReadBackAsWritten : Obligations.WrittenRegistersReadBackAsWritten := by
  intro s t o v ho h
  obtain ⟨r, hr, hv⟩ := regValue_after_regWr ho h
  rw [exec_regRd_mapped hr, hv]
  rfl

/-! ### The STATUS word (10_state.md R24, R45) -/

theorem getLsbD_flagBit (b : Bool) {i : Nat} (hi : i < 32) (j : Nat) :
    (flagBit b i).getLsbD j = (b && decide (j = i)) := by
  cases b with
  | false => simp [flagBit]
  | true =>
    have hbit : flagBit true i = BitVec.twoPow 32 i := rfl
    simp [hbit, BitVec.getLsbD_twoPow, hi, eq_comm]

/-- Bit `j` of the STATUS word, as the table of 10_state.md R24 places the fields. -/
theorem Status.getLsbD_word (f : Status) (j : Nat) :
    f.word.getLsbD j =
      (f.initDone && decide (j = 0) || f.inrecValid && decide (j = 1) || f.stale && decide (j = 2) ||
        f.txBusy && decide (j = 3) || f.rxPending && decide (j = 4) || f.validResult && decide (j = 5) ||
        f.err && decide (j = 6)) := by
  simp [Status.word, getLsbD_flagBit]

/-- Settles O22, bit by bit; above bit 6 no field stands. -/
theorem statusWordPlacesTheFlags : Obligations.StatusWordPlacesTheFlags := by
  intro f
  simp only [f.getLsbD_word]
  refine ⟨by simp, by simp, by simp, by simp, by simp, by simp, by simp, fun i hi => ?_⟩
  have hne : ∀ k, k < 7 → i ≠ k := by omega
  simp [hne]

/-! ### What sets and what clears each STATUS field (10_state.md R24) -/

/-- A flag goes from `a` to `b`: it is as it was, or it is set and `Sets` holds, or it is cleared and `Clears` holds. -/
def FlagStep (a b : Bool) (Sets Clears : Prop) : Prop := b = a ∨ (Sets ∧ b = true) ∨ (Clears ∧ b = false)

theorem FlagStep.sets {a b : Bool} {S C : Prop} (h : FlagStep a b S C) (ha : a = false) (hb : b = true) : S := by
  subst ha hb
  simpa [FlagStep] using h

theorem FlagStep.clears {a b : Bool} {S C : Prop} (h : FlagStep a b S C) (ha : a = true) (hb : b = false) : C := by
  subst ha hb
  simpa [FlagStep] using h

section
variable {i : Instr} {s t : State}

theorem Effect.initDone_step (e : Effect i s t) :
    FlagStep s.status.initDone t.status.initDone (Issues i .init) (i = .reset) := by
  cases e with
  | armed hi _ _ => exact .inr (.inl ⟨hi, rfl⟩)
  | reset => exact .inr (.inr ⟨rfl, rfl⟩)
  | _ => exact .inl rfl

theorem Effect.inrecValid_step (e : Effect i s t) :
    FlagStep s.status.inrecValid t.status.inrecValid (i = .decode ∧ decodeSucceeds Config.hw s = true)
      (i = .reset) := by
  cases e with
  | accepted r he hu => exact .inr (.inl ⟨⟨rfl, decodeSucceeds_of_unpack he hu⟩, rfl⟩)
  | reset => exact .inr (.inr ⟨rfl, rfl⟩)
  | _ => exact .inl rfl

theorem Effect.stale_step (e : Effect i s t) :
    FlagStep s.status.stale t.status.stale (i = .tick ∧ s.linkCnt = 1)
      (i = .reset ∨ Issues i .init ∨ (i = .decode ∧ decodeSucceeds Config.hw s = true)) := by
  cases e with
  | expired _ h0 => exact .inr (.inl ⟨⟨rfl, by bv_omega⟩, rfl⟩)
  | reset => exact .inr (.inr ⟨.inl rfl, rfl⟩)
  | armed hi _ _ => exact .inr (.inr ⟨.inr (.inl hi), rfl⟩)
  | accepted r he hu => exact .inr (.inr ⟨.inr (.inr ⟨rfl, decodeSucceeds_of_unpack he hu⟩), rfl⟩)
  | _ => exact .inl rfl

theorem Effect.txBusy_step (e : Effect i s t) :
    FlagStep s.status.txBusy t.status.txBusy (Issues i .send) (i = .txDone ∨ i = .reset) := by
  cases e with
  | sent hi _ _ => exact .inr (.inl ⟨hi, rfl⟩)
  | txDone _ => exact .inr (.inr ⟨.inl rfl, rfl⟩)
  | reset => exact .inr (.inr ⟨.inr rfl, rfl⟩)
  | _ => exact .inl rfl

theorem Effect.rxPending_step (e : Effect i s t) :
    FlagStep s.status.rxPending t.status.rxPending (∃ bytes, i = .rxArrive bytes) (i = .decode ∨ i = .reset) := by
  cases e with
  | arrived _ _ => exact .inr (.inl ⟨⟨_, rfl⟩, rfl⟩)
  | accepted _ _ _ => exact .inr (.inr ⟨.inl rfl, rfl⟩)
  | dropped _ _ => exact .inr (.inr ⟨.inl rfl, rfl⟩)
  | reset => exact .inr (.inr ⟨.inr rfl, rfl⟩)
  | _ => exact .inl rfl

theorem Effect.validResult_step (e : Effect i s t) :
    FlagStep s.status.validResult t.status.validResult (Issues i .validate ∧ frameValid Config.hw s.rxbuf = true)
      (i = .reset ∨ (Issues i .validate ∧ frameValid Config.hw s.rxbuf = false)) := by
  cases e with
  | validated hi =>
    cases hv : frameValid Config.hw s.rxbuf with
    | true => exact .inr (.inl ⟨⟨hi, rfl⟩, hv⟩)
    | false => exact .inr (.inr ⟨.inr ⟨hi, rfl⟩, hv⟩)
  | reset => exact .inr (.inr ⟨.inl rfl, rfl⟩)
  | _ => exact .inl rfl

/-- ERR is set only by an error, whose sequence is then the only effect (60_exceptions.md R223). -/
theorem Effect.err_step (e : Effect i s t) :
    FlagStep s.status.err t.status.err
      (∃ c, t = s.raiseError c ∨ ((∃ o, i = .regRd o) ∧ t = (s.raiseError c).answer 0))
      (Issues i .clrerr ∨ i = .reset) := by
  obtain ⟨c, hc⟩ | ⟨hi, herr, -⟩ | ⟨herr, -⟩ := e.latch_cases
  · refine .inr (.inl ⟨⟨c, hc⟩, ?_⟩)
    obtain rfl | ⟨-, rfl⟩ := hc <;> rfl
  · exact .inr (.inr ⟨hi, herr⟩)
  · exact .inl herr

theorem Issues.init_spellings (h : Issues i .init) : i = .init ∨ i = .regWr 0x0C 1 := by
  simpa [cmdOffset] using h.cases

theorem Issues.send_spellings (h : Issues i .send) : i = .send ∨ i = .regWr 0x0C 3 := by
  simpa [cmdOffset] using h.cases

theorem Issues.validate_spellings (h : Issues i .validate) : i = .validate ∨ i = .regWr 0x0C 4 := by
  simpa [cmdOffset] using h.cases

theorem Issues.clrerr_spellings (h : Issues i .clrerr) : i = .clrerr ∨ i = .regWr 0x0C 5 := by
  simpa [cmdOffset] using h.cases

end

/-- Settles O36, field by field, from what an operation does to each field. -/
theorem statusFieldsChangeOnlyAsTheTableSays : Obligations.StatusFieldsChangeOnlyAsTheTableSays := by
  intro i s t h
  have e := exec_effect h
  refine ⟨fun ha hb => (e.initDone_step.sets ha hb).init_spellings, e.initDone_step.clears,
    e.inrecValid_step.sets, e.inrecValid_step.clears, e.stale_step.sets, fun ha hb => ?stale,
    fun ha hb => (e.txBusy_step.sets ha hb).send_spellings, e.txBusy_step.clears,
    e.rxPending_step.sets, e.rxPending_step.clears,
    fun ha hb => (e.validResult_step.sets ha hb).imp_left Issues.validate_spellings,
    fun ha hb => (e.validResult_step.clears ha hb).imp_right (And.imp_left Issues.validate_spellings),
    e.err_step.sets, fun ha hb => ?err⟩
  case stale =>
    obtain hi | hi | hi := e.stale_step.clears ha hb
    · exact .inl hi
    · exact .inr (or_assoc.mp (.inl hi.init_spellings))
    · exact .inr (.inr (.inr hi))
  case err => exact or_assoc.mp ((e.err_step.clears ha hb).imp_left Issues.clrerr_spellings)

/-! ### The start state (10_state.md R46) -/

/-- Settles O2: each register has its reset value by definition, and an empty buffer reads 0x00 everywhere. -/
theorem startStateHoldsResetValues : Obligations.StartStateHoldsResetValues :=
  ⟨rfl, rfl, rfl, rfl, rfl, rfl, rfl, rfl, rfl, Memory.read_nil, Memory.read_nil, rfl, rfl, rfl, rfl⟩

theorem reset_latchConsistent : State.reset.LatchConsistent := ⟨by decide, fun h => absurd rfl h, rfl⟩

/-- An empty buffer has the CRC field 0, which is the reset value of OUTREC_CRC. -/
theorem reset_outboundSound : State.reset.OutboundSound := ⟨rfl, .inr ⟨rfl, rfl⟩⟩

/-- Settles O47: right after reset the buffers are empty, no flag is set and nothing is recorded. -/
theorem resetMeetsEveryInvariant : Obligations.ResetMeetsEveryInvariant :=
  ⟨⟨Memory.wf_nil, Memory.wf_nil⟩, ⟨nofun, fun _ => ⟨rfl, rfl⟩⟩, reset_latchConsistent,
    fun _ => ⟨rfl, rfl, rfl, rfl, rfl⟩, nofun, reset_outboundSound, ⟨nofun, fun _ => rfl⟩⟩

end Sys2Proof.Machine
end

section
/-! Proofs of the statements of 20_memory.md: which transactions are register accesses, who writes each store, the torn
read, and the seven invariants along every interleaving. -/

namespace Sys2Proof.Machine

/-! ### The transaction a step takes (20_memory.md R54, R60) -/

/-- Settles O31: a step takes the head of the schedule, and the decoder answers the instruction it runs. -/
theorem stepRunsTheDecodedTransaction : Obligations.StepRunsTheDecodedTransaction := by
  intro s t rest i hs hd
  simp only [step, fetch, hs, hd]

/-- The register map has a register for no misaligned offset and for none from 0x5C on (20_memory.md R54, R56). -/
theorem regAt_eq_none {o : BitVec 8} : o.toNat % 4 ≠ 0 ∨ 0x5C ≤ o.toNat → regAt o = none := by
  revert o; decide

theorem exec_regRd_unmapped {o : BitVec 8} (ho : regAt o = none) (s : State) :
    exec (.regRd o) s = .next ((s.raiseError .badAccess).answer 0) := by
  simp only [exec, execRegRd, ho]

/-- Settles O17: no register stands at such an offset. -/
theorem badReadsRaiseBadAccess : Obligations.BadReadsRaiseBadAccess := fun s _ ho =>
  exec_regRd_unmapped (regAt_eq_none ho) s

/-- The two low bits of a descriptor tell whether its offset is a multiple of 4. -/
theorem descriptor_low_bits_eq_zero {d : BitVec 11} :
    d.extractLsb' 0 2 = 0 ↔ (d.extractLsb' 0 8).toNat % 4 = 0 := by
  rw [← BitVec.toNat_inj]
  simp only [BitVec.extractLsb'_toNat, Nat.shiftRight_zero, BitVec.ofNat_eq_ofNat, BitVec.toNat_ofNat]
  omega

/-- A transaction of another size, or with a misaligned offset, is no register access (30_encoding.md R84). -/
theorem decodeDescriptor_malformed {d : BitVec 11}
    (h : d.extractLsb' 9 2 ≠ 0b10 ∨ (d.extractLsb' 0 8).toNat % 4 ≠ 0) : decodeDescriptor d = .badAccess := by
  refine if_neg fun ⟨hsize, hlow⟩ => ?_
  obtain h | h := h
  · exact h hsize
  · exact h (descriptor_low_bits_eq_zero.mp hlow)

theorem step_badAccess {s : State} {d : BitVec 11} {v : Word} {rest : List Transaction}
    (hs : s.schedule = .bus d v :: rest) (hd : decodeDescriptor d = .badAccess) :
    step s = .next (refuseAccess d { s with schedule := rest }) := by
  simp only [step, fetch, hs, decode, hd, rejected]

/-- Settles O32: the decoder finds no register access in the transaction, and the step refuses it. -/
theorem malformedBusTransactionRaisesBadAccess : Obligations.MalformedBusTransactionRaisesBadAccess :=
  fun _ _ _ _ hs h => step_badAccess hs (decodeDescriptor_malformed h)

/-! ### Who writes each store (20_memory.md R68) -/

section
variable {i : Instr} {s t : State}

theorem Issues.pack_spellings (h : Issues i .pack) : i = .pack ∨ i = .regWr 0x0C 2 := by
  simpa [cmdOffset] using h.cases

theorem Effect.rxbuf_writers (e : Effect i s t) :
    t.rxbuf = s.rxbuf ∨ i = .reset ∨ ∃ bytes, i = .rxArrive bytes := by
  cases e with
  | arrived _ _ => exact .inr (.inr ⟨_, rfl⟩)
  | reset => exact .inr (.inl rfl)
  | _ => exact .inl rfl

/-- TXBUF and OUTREC_CRC are written together, by PACK_FN. -/
theorem Effect.outbound_writers (e : Effect i s t) :
    (t.txbuf = s.txbuf ∧ t.outrecCrc = s.outrecCrc) ∨ i = .reset ∨ Issues i .pack ∨ Issues i .send := by
  cases e with
  | packed hi _ => exact .inr (.inr (.inl hi))
  | sent hi _ _ => exact .inr (.inr (.inr hi))
  | reset => exact .inr (.inl rfl)
  | _ => exact .inl ⟨rfl, rfl⟩

theorem Effect.inrec_writers (e : Effect i s t) :
    t.inrec = s.inrec ∨ i = .reset ∨ (i = .decode ∧ decodeSucceeds Config.hw s = true) := by
  cases e with
  | accepted r he hu => exact .inr (.inr ⟨rfl, decodeSucceeds_of_unpack he hu⟩)
  | reset => exact .inr (.inl rfl)
  | _ => exact .inl rfl

theorem Effect.outrec_writers (e : Effect i s t) :
    t.outrec = s.outrec ∨ i = .reset ∨ ∃ v, i = .regWr 0x2C v ∨ i = .regWr 0x30 v ∨ i = .regWr 0x34 v := by
  cases e with
  | outrecWritten r ho =>
    obtain rfl | rfl | rfl := ho
    · exact .inr (.inr ⟨_, .inl rfl⟩)
    · exact .inr (.inr ⟨_, .inr (.inl rfl)⟩)
    · exact .inr (.inr ⟨_, .inr (.inr rfl)⟩)
  | reset => exact .inr (.inl rfl)
  | _ => exact .inl rfl

theorem Effect.linkCnt_writers (e : Effect i s t) :
    t.linkCnt = s.linkCnt ∨ i = .reset ∨ Issues i .init ∨ i = .tick ∨
      (i = .decode ∧ decodeSucceeds Config.hw s = true) := by
  cases e with
  | armed hi _ _ => exact .inr (.inr (.inl hi))
  | accepted r he hu => exact .inr (.inr (.inr (.inr ⟨rfl, decodeSucceeds_of_unpack he hu⟩)))
  | ticked _ _ => exact .inr (.inr (.inr (.inl rfl)))
  | expired _ _ => exact .inr (.inr (.inr (.inl rfl)))
  | reset => exact .inr (.inl rfl)
  | _ => exact .inl rfl

theorem Effect.linkThr_writers (e : Effect i s t) : t.linkThr = s.linkThr ∨ i = .reset ∨ Issues i .init := by
  cases e with
  | armed hi _ _ => exact .inr (.inr hi)
  | reset => exact .inr (.inl rfl)
  | _ => exact .inl rfl

end

/-- Settles O35, store by store; a host command is spelt as itself or as its word in CMD. -/
theorem writersOfEachStore : Obligations.WritersOfEachStore := by
  intro i s t h
  have e := exec_effect h
  refine ⟨e.rxbuf_writers.resolve_left, fun hne => ?outbound, e.inrec_writers.resolve_left,
    e.outrec_writers.resolve_left, fun hne => ?linkCnt,
    fun hne => (e.linkThr_writers.resolve_left hne).imp_right Issues.init_spellings⟩
  case outbound =>
    obtain ⟨htx, hcrc⟩ | hi | hi | hi := e.outbound_writers
    · exact absurd hcrc (hne.resolve_left (not_not_intro htx))
    · exact .inl hi
    · have hspell := hi.pack_spellings
      tauto
    · have hspell := hi.send_spellings
      tauto
  case linkCnt =>
    obtain hi | hi | hi := e.linkCnt_writers.resolve_left hne
    · exact .inl hi
    · exact .inr (or_assoc.mp (.inl hi.init_spellings))
    · exact .inr (.inr (.inr hi))

/-! ### The torn read (20_memory.md R63) -/

theorem exec_decode_accepts {s : State} {r : InRec} (he : decodeEnabled s = true)
    (hu : unpackFn Config.hw s.rxbuf = some r) :
    exec .decode s = .next (acceptRecord r (takePending Config.hw s)) := by
  simp only [exec, execDecode, decodeUnder, he, if_true, decodePending, hu]

/-- Settles O41: the DECODE between the two reads replaces the whole record by that of the pending frame. -/
theorem unheldReadsMayTear : Obligations.UnheldReadsMayTear := by
  intro s hinit hpend hhold hsof hcrc
  have he : decodeEnabled (s.answer s.inrec.pitch) = true := (decodeEnabled_iff _).mpr ⟨hinit, hpend, hhold⟩
  have hu : unpackFn Config.hw (s.answer s.inrec.pitch).rxbuf = some (frameRecord s.rxbuf) :=
    unpackFn_eq_some.mpr ⟨hsof, hcrc, rfl⟩
  have hpitch : exec (.regRd 0x20) s = .next (s.answer s.inrec.pitch) := exec_regRd_mapped (r := .inrecPitch) rfl s
  simp only [runInstrs, hpitch, exec_decode_accepts he hu, exec_regRd_mapped (o := 0x24) (r := .inrecYaw) rfl]
  exact ⟨_, rfl, List.append_assoc _ _ _⟩

/-! ### Every effect keeps every invariant -/

/-- A refused access does what a misaligned read or a bad write does (20_memory.md R54). -/
theorem refuseAccess_effect (d : BitVec 11) (s : State) : ∃ i, Effect i s (refuseAccess d s) := by
  obtain h | h := refuseAccess_cases d s <;> rw [h]
  · exact ⟨.regWr 1 0, .raised _ (.inr (.inr (.inr (.inr (.inr (.inr (.inr ⟨1, 0, rfl, rfl⟩)))))))⟩
  · exact ⟨.regRd 1, .readRefused rfl⟩

/-- A property that every effect keeps and that does not look at the schedule is kept by every step. -/
theorem step_keeps_of_effect {P : State → Prop} (hsched : ∀ s l, P s → P { s with schedule := l })
    (heff : ∀ i s t, Effect i s t → P s → P t) {s t : State} (hp : P s) (h : step s = .next t) : P t :=
  step_keeps P hsched
    (fun s d hp => by
      obtain ⟨i, e⟩ := refuseAccess_effect d s
      exact heff i s _ e hp)
    (fun i s t hp e => heff i s t e hp) hp h

section
variable {i : Instr} {s t : State}

theorem initDone_of_decodeEnabled (h : decodeEnabled s = true) : s.status.initDone = true := by
  obtain ⟨hinit, -, -⟩ := (decodeEnabled_iff s).mp h
  exact hinit

theorem Effect.buffersCanonical (e : Effect i s t) (h : s.BuffersCanonical) : t.BuffersCanonical := by
  obtain ⟨htx, hrx⟩ := h
  cases e with
  | packed _ _ => exact ⟨by rw [packFn_txbuf]; exact packFrame_wf _ _, hrx⟩
  | sent _ _ _ => exact ⟨by rw [transmit_txbuf]; exact packFrame_wf _ _, hrx⟩
  | arrived hl _ => exact ⟨htx, Memory.ofBytes_wf _ hl.le⟩
  | reset => exact ⟨Memory.wf_nil, Memory.wf_nil⟩
  | _ => exact ⟨htx, hrx⟩

/-- Once INIT has run the threshold is not 0, since the counter lies between 1 and it. -/
theorem State.SupervisorBounded.one_le_linkThr (h : s.SupervisorBounded) (hinit : s.status.initDone = true) :
    1 ≤ s.linkThr := by
  obtain ⟨hlo, hhi⟩ := h.1 hinit
  exact BitVec.le_trans hlo hhi

theorem State.SupervisorBounded.of_initDone (hinit : s.status.initDone = true) (hlo : 1 ≤ s.linkCnt)
    (hhi : s.linkCnt ≤ s.linkThr) : s.SupervisorBounded :=
  ⟨fun _ => ⟨hlo, hhi⟩, fun hf => absurd (hinit.symm.trans hf) (by decide)⟩

theorem Effect.supervisorBounded (e : Effect i s t) (h : s.SupervisorBounded) : t.SupervisorBounded := by
  cases e with
  | armed _ _ hne => exact .of_initDone rfl (by bv_omega) (BitVec.le_refl _)
  | accepted r he _ =>
    have hinit := initDone_of_decodeEnabled he
    exact .of_initDone hinit (h.one_le_linkThr hinit) (BitVec.le_refl _)
  | ticked hinit hne =>
    obtain ⟨hlo, hhi⟩ := h.1 hinit
    refine .of_initDone hinit ?_ ?_ <;> simp only [countDown_linkCnt, countDown_linkThr] <;> bv_omega
  | expired hinit _ => exact .of_initDone hinit (h.one_le_linkThr hinit) (BitVec.le_refl _)
  | reset => exact ⟨nofun, fun _ => ⟨rfl, rfl⟩⟩
  | _ => exact h

theorem State.QuietBeforeInit.of_initDone (hinit : s.status.initDone = true) : s.QuietBeforeInit :=
  fun hf => absurd (hinit.symm.trans hf) (by decide)

theorem Effect.quietBeforeInit (e : Effect i s t) (h : s.QuietBeforeInit) : t.QuietBeforeInit := by
  cases e with
  | armed _ _ _ => exact .of_initDone rfl
  | sent _ hinit _ => exact .of_initDone hinit
  | accepted r he _ => exact .of_initDone (initDone_of_decodeEnabled (s := s) he)
  | dropped he _ => exact .of_initDone (initDone_of_decodeEnabled (s := s) he)
  | expired hinit _ => exact .of_initDone hinit
  | arrived _ hinit => exact .of_initDone hinit
  | txDone _ =>
    intro hf
    obtain ⟨hvalid, hstale, -, hpend, hrx⟩ := h hf
    exact ⟨hvalid, hstale, rfl, hpend, hrx⟩
  | reset => exact fun _ => ⟨rfl, rfl, rfl, rfl, rfl⟩
  | _ => exact h

/-- Events that are no TxSend leave the frame in flight as it is. -/
theorem State.TransmitHeld.of_events {es : List Event} (h : s.TransmitHeld) (hh : t.hist = s.hist ++ es)
    (hes : es.filterMap Event.sent = []) (hbusy : t.status.txBusy = s.status.txBusy) (htx : t.txbuf = s.txbuf) :
    t.TransmitHeld := by
  intro hb
  rw [State.lastSent, hh, List.filterMap_append, hes, List.append_nil, htx]
  exact h (hbusy ▸ hb)

/-- A TxSend of TXBUF makes it the frame handed over last. -/
theorem State.TransmitHeld.of_txSend {es : List Event} (hh : s.hist = es ++ [.txSend s.txbuf.bytes]) :
    s.TransmitHeld := by
  intro _
  simp [State.lastSent, hh, Event.sent]

theorem State.TransmitHeld.of_idle (h : s.status.txBusy = false) : s.TransmitHeld :=
  fun hb => absurd (h.symm.trans hb) (by decide)

theorem Effect.transmitHeld (e : Effect i s t) (h : s.TransmitHeld) : t.TransmitHeld := by
  cases e with
  | raised c _ => exact h.of_events (State.raiseError_hist c s) rfl rfl rfl
  | readRefused _ => exact h.of_events (State.raiseError_hist _ s) rfl rfl rfl
  | packed _ hb => exact .of_idle hb
  | sent _ _ _ => exact .of_txSend (by rw [transmit_hist, transmit_txbuf])
  | validated _ => exact h.of_events (validateUnder_hist _ _) rfl rfl rfl
  | accepted r _ _ => exact h.of_events (takePending_hist _ _) (unpackEvents_sent _ _) rfl rfl
  | dropped _ _ => exact h.of_events (takePending_hist _ _) (unpackEvents_sent _ _) rfl rfl
  | expired _ _ => exact h.of_events ((expire_hist _).trans (List.append_assoc _ _ _)) rfl rfl rfl
  | txDone _ => exact .of_idle rfl
  | reset => exact .of_idle rfl
  | _ => exact h

/-- A frame PACK_FN has just built carries its own CRC (41_frame_codec.md R120). -/
theorem State.OutboundSound.of_packed {r : OutRec} (htx : s.txbuf = packFrame Config.hw r)
    (hcrc : s.outrecCrc = crcOf Config.hw (packPrefix r)) : s.OutboundSound := by
  refine ⟨?_, .inl ?_⟩
  · rw [htx, hcrc, crcField_packFrame]
  · rw [htx, hcrc, crcOf_packFrame]

theorem Effect.outboundSound (e : Effect i s t) (h : s.OutboundSound) : t.OutboundSound := by
  cases e with
  | packed _ _ => exact .of_packed (packFn_txbuf _ _) (packFn_outrecCrc _ _)
  | sent _ _ _ => exact .of_packed (transmit_txbuf _ _) (transmit_outrecCrc _ _)
  | reset => exact reset_outboundSound
  | _ => exact h

/-- A record UNPACK_FN returns has the right sentinel and the CRC of its own fields (41_frame_codec.md R125). -/
theorem unpackFn_sound {cfg : Config} {m : Memory} {r : InRec} (hu : unpackFn cfg m = some r) :
    r.sof = cfg.rxSof ∧ r.crc = crcOf cfg (packPrefix r.asOut) := by
  obtain ⟨hsof, hcrc, rfl⟩ := unpackFn_eq_some.mp hu
  have hwords : crcWordList (packPrefix (frameRecord m).asOut) = crcWordList m :=
    crcWordList_congr (packPrefix_frameRecord_read m)
  exact ⟨hsof, hcrc.symm.trans (congrArg cfg.crcWords hwords.symm)⟩

theorem Effect.inboundSound (e : Effect i s t) (h : s.InboundSound) : t.InboundSound := by
  cases e with
  | accepted r _ hu => exact ⟨fun _ => unpackFn_sound hu, nofun⟩
  | reset => exact ⟨nofun, fun _ => rfl⟩
  | _ => exact h

/-! ### Every step and every run keep every invariant (20_memory.md R61) -/

theorem State.BuffersCanonical.after_step (hs : s.BuffersCanonical) (h : step s = .next t) : t.BuffersCanonical :=
  step_keeps_of_effect (fun _ _ hp => hp) (fun _ _ _ => Effect.buffersCanonical) hs h

theorem State.SupervisorBounded.after_step (hs : s.SupervisorBounded) (h : step s = .next t) : t.SupervisorBounded :=
  step_keeps_of_effect (fun _ _ hp => hp) (fun _ _ _ => Effect.supervisorBounded) hs h

theorem State.QuietBeforeInit.after_step (hs : s.QuietBeforeInit) (h : step s = .next t) : t.QuietBeforeInit :=
  step_keeps_of_effect (fun _ _ hp => hp) (fun _ _ _ => Effect.quietBeforeInit) hs h

theorem State.TransmitHeld.after_step (hs : s.TransmitHeld) (h : step s = .next t) : t.TransmitHeld :=
  step_keeps_of_effect (fun _ _ hp => hp) (fun _ _ _ => Effect.transmitHeld) hs h

theorem State.OutboundSound.after_step (hs : s.OutboundSound) (h : step s = .next t) : t.OutboundSound :=
  step_keeps_of_effect (fun _ _ hp => hp) (fun _ _ _ => Effect.outboundSound) hs h

theorem State.InboundSound.after_step (hs : s.InboundSound) (h : step s = .next t) : t.InboundSound :=
  step_keeps_of_effect (fun _ _ hp => hp) (fun _ _ _ => Effect.inboundSound) hs h

end

/-- Settles O48: a buffer is written only as a packed frame, as 16 arrived bytes, or as the empty buffer of reset. -/
theorem stepKeepsBuffersCanonical : Obligations.StepKeepsBuffersCanonical := fun _ _ =>
  State.BuffersCanonical.after_step

/-- A property that every step keeps holds at the end of every run that starts with it. -/
theorem run_keeps {P : State → Prop} (hstep : ∀ s t, P s → step s = .next t → P t) {n : Nat} {s t : State}
    (h : Sys2Proof.core.run n s = .next t) (hp : P s) : P t := by
  induction n generalizing s with
  | zero => cases h; exact hp
  | succ n ih =>
    simp only [Host.Core.run] at h
    split at h
    · next u hu => exact ih h (hstep s u hp hu)
    · cases h
    · cases h

/-- Settles O55: the start state meets each invariant whatever the schedule is, and every step keeps it. -/
theorem everyInterleavingKeepsEveryInvariant : Obligations.EveryInterleavingKeepsEveryInvariant := by
  intro sched n t h
  obtain ⟨hbuf, hsup, hlatch, hquiet, htx, hout, hin⟩ := resetMeetsEveryInvariant
  exact ⟨run_keeps (fun _ _ => State.BuffersCanonical.after_step) h hbuf,
    run_keeps (fun _ _ => State.SupervisorBounded.after_step) h hsup,
    run_keeps stepKeepsLatchConsistent h hlatch,
    run_keeps (fun _ _ => State.QuietBeforeInit.after_step) h hquiet,
    run_keeps (fun _ _ => State.TransmitHeld.after_step) h htx,
    run_keeps (fun _ _ => State.OutboundSound.after_step) h hout,
    run_keeps (fun _ _ => State.InboundSound.after_step) h hin⟩

end Sys2Proof.Machine
end

section
/-! Proofs of the statements of 30_encoding.md: the command words, the round trip between encoder and decoder, what the
decoder answers, and the CRC of the outbound frame. -/

namespace Sys2Proof

/-! ### Command words (30_encoding.md R79 to R82) -/

/-- The MBZ field of a command word is 0 exactly for the words below 256 (30_encoding.md R79). -/
theorem high_bytes_eq_zero_iff {c : Word} : c.extractLsb' 8 24 = 0 ↔ c.toNat < 256 := by
  rw [← BitVec.toNat_inj]
  simp only [BitVec.extractLsb'_toNat, Nat.shiftRight_eq_div_pow, BitVec.ofNat_eq_ofNat, BitVec.toNat_ofNat]
  have hc := c.isLt
  omega

theorem toNat_low_byte {c : Word} (h : c.toNat < 256) : (c.extractLsb' 0 8).toNat = c.toNat := by
  simp only [BitVec.extractLsb'_toNat, Nat.shiftRight_zero]
  omega

/-- What a command word decodes to, over all words: each answer with the words that give it. -/
theorem decodeCommand_cases (c : Word) :
    (c.toNat = 1 ∧ decodeCommand c = .init) ∨ (c.toNat = 2 ∧ decodeCommand c = .pack) ∨
    (c.toNat = 3 ∧ decodeCommand c = .send) ∨ (c.toNat = 4 ∧ decodeCommand c = .validate) ∨
    (c.toNat = 5 ∧ decodeCommand c = .clrerr) ∨
    ((0x80 ≤ c.toNat ∧ c.toNat ≤ 0x84) ∧ decodeCommand c = .eventOnly) ∨
    ((c.toNat = 0 ∨ (6 ≤ c.toNat ∧ c.toNat ≤ 0x7F) ∨ 0x85 ≤ c.toNat) ∧ decodeCommand c = .illegal) := by
  unfold decodeCommand
  split
  · next hmbz =>
    have hlarge : ¬c.toNat < 256 := mt high_bytes_eq_zero_iff.mpr hmbz
    simp only [reduceCtorEq, and_false, false_or, and_true]
    omega
  · next hmbz =>
    rw [toNat_low_byte (high_bytes_eq_zero_iff.mp (not_not.mp hmbz))]
    split
    case h_11 =>
      simp only [imp_false, reduceCtorEq, and_false, false_or, and_true] at *
      omega
    all_goals
      simp only [reduceCtorEq, and_false, false_or, or_false, and_true]
      omega

/-- Settles O28: the answers differ from one another and so do the words that give them. -/
theorem commandWordsDecodeExactly : Obligations.CommandWordsDecodeExactly := by
  intro c
  obtain ⟨hc, hd⟩ | ⟨hc, hd⟩ | ⟨hc, hd⟩ | ⟨hc, hd⟩ | ⟨hc, hd⟩ | ⟨hc, hd⟩ | ⟨hc, hd⟩ := decodeCommand_cases c <;>
    simp only [hd, reduceCtorEq, false_iff, true_iff] <;> omega

/-- A host command word is one of the words 1 to 5 (30_encoding.md R80). -/
theorem mem_hostCommandWords_iff {c : Word} : c ∈ hostCommandWords ↔ 1 ≤ c.toNat ∧ c.toNat ≤ 5 := by
  simp only [hostCommandWords, List.mem_cons, List.not_mem_nil, or_false, ← BitVec.toNat_inj, BitVec.ofNat_eq_ofNat,
    BitVec.toNat_ofNat]
  omega

/-- A CMD write of a word that is no host command stays a register write (30_encoding.md R78). -/
theorem decodeCmdWrite_of_not_mem {c : Word} (h : c ∉ hostCommandWords) : decodeCmdWrite c = .regWr cmdOffset c := by
  rw [mem_hostCommandWords_iff] at h
  unfold decodeCmdWrite
  obtain ⟨hc, -⟩ | ⟨hc, -⟩ | ⟨hc, -⟩ | ⟨hc, -⟩ | ⟨hc, -⟩ | ⟨-, hd⟩ | ⟨-, hd⟩ := decodeCommand_cases c
  iterate 5 omega
  · rw [hd]
  · rw [hd]

/-- A well-formed register write is no CMD write of a host command (log 9). -/
theorem wellFormed_regWr_iff {o : BitVec 8} {v : Word} :
    (Instr.regWr o v).wellFormed = true ↔ alignedOffset o = true ∧ (o = cmdOffset → v ∉ hostCommandWords) := by
  simp [Instr.wellFormed, imp_iff_not_or]

/-- What a CMD write decodes to: a command with no operands, or the write of a word that is no host command. -/
theorem decodeCmdWrite_wellFormed (c : Word) : (decodeCmdWrite c).wellFormed = true := by
  by_cases h : c ∈ hostCommandWords
  · simp only [hostCommandWords, List.mem_cons, List.not_mem_nil, or_false] at h
    obtain rfl | rfl | rfl | rfl | rfl := h <;> rfl
  · rw [decodeCmdWrite_of_not_mem h]
    exact wellFormed_regWr_iff.mpr ⟨rfl, fun _ => h⟩

/-! ### Bus descriptors (30_encoding.md R84) -/

/-- The two lowest bits of a descriptor are those of its offset. -/
theorem low_bits_of_offset (d : BitVec 11) : (d.extractLsb' 0 8).extractLsb' 0 2 = d.extractLsb' 0 2 :=
  BitVec.extractLsb'_extractLsb'_of_le (by decide)

/-- SIZE and W leave the offset's bits as they are. -/
theorem offset_of_or {k : BitVec 11} (hk : k.extractLsb' 0 8 = 0) (o : BitVec 8) :
    (k ||| o.setWidth 11).extractLsb' 0 8 = o := by
  rw [BitVec.extractLsb'_or, hk, ← BitVec.setWidth_eq_extractLsb' (by decide)]
  simp

theorem offset_readDescriptor (o : BitVec 8) : (readDescriptor o).extractLsb' 0 8 = o := offset_of_or rfl o

theorem offset_writeDescriptor (o : BitVec 8) : (writeDescriptor o).extractLsb' 0 8 = o := offset_of_or rfl o

/-- A 32-bit access at an aligned offset is a register access, read or write as W says (30_encoding.md R84). -/
theorem decodeDescriptor_aligned {d : BitVec 11} {o : BitVec 8} (hsize : d.extractLsb' 9 2 = 0b10#2)
    (ho : d.extractLsb' 0 8 = o) (ha : alignedOffset o = true) :
    decodeDescriptor d = if d.extractLsb' 8 1 = 1 then .regWr o else .regRd o := by
  subst ho
  rw [alignedOffset, low_bits_of_offset, beq_iff_eq] at ha
  exact if_pos ⟨hsize, ha⟩

theorem decodeDescriptor_readDescriptor {o : BitVec 8} (ha : alignedOffset o = true) :
    decodeDescriptor (readDescriptor o) = .regRd o := by
  obtain ⟨hsize, hw⟩ := Laws.IssuedBy.size_read o
  rw [decodeDescriptor_aligned hsize (offset_readDescriptor o) ha, hw]
  rfl

theorem decodeDescriptor_writeDescriptor {o : BitVec 8} (ha : alignedOffset o = true) :
    decodeDescriptor (writeDescriptor o) = .regWr o := by
  obtain ⟨hsize, hw⟩ := Laws.IssuedBy.size_write o
  rw [decodeDescriptor_aligned hsize (offset_writeDescriptor o) ha, hw]
  rfl

/-- What a descriptor decodes to: an access at an aligned offset, or none. -/
theorem decodeDescriptor_cases (d : BitVec 11) :
    (∃ o, alignedOffset o = true ∧ (decodeDescriptor d = .regRd o ∨ decodeDescriptor d = .regWr o)) ∨
    decodeDescriptor d = .badAccess := by
  unfold decodeDescriptor
  split
  · next h =>
    refine .inl ⟨d.extractLsb' 0 8, ?_, ?_⟩
    · rw [alignedOffset, low_bits_of_offset, beq_iff_eq]
      exact h.2
    · split
      · exact .inr rfl
      · exact .inl rfl
  · exact .inr rfl

/-! ### Transactions (30_encoding.md R84, R86, R88) -/

theorem decode_bus_read {d : BitVec 11} {o : BitVec 8} (h : decodeDescriptor d = .regRd o) (v : Word) :
    decode (.bus d v) = .ok (.regRd o) := by
  simp only [decode, h]

theorem decode_bus_write {d : BitVec 11} {o : BitVec 8} (h : decodeDescriptor d = .regWr o) (v : Word) :
    decode (.bus d v) = .ok (if o = cmdOffset then decodeCmdWrite v else .regWr o v) := by
  simp only [decode, h]

theorem decode_bus_badAccess {d : BitVec 11} (h : decodeDescriptor d = .badAccess) (v : Word) :
    decode (.bus d v) = .error .badAccess := by
  simp only [decode, h]

/-- A write of a command word at CMD's offset is decoded as a CMD write (30_encoding.md R88). -/
theorem decode_commandWrite (c : Word) : decode (commandWrite c) = .ok (decodeCmdWrite c) :=
  decode_bus_write (decodeDescriptor_writeDescriptor rfl) c

theorem decode_encode_regWr {o : BitVec 8} {v : Word} (h : (Instr.regWr o v).wellFormed = true) :
    decode (encode (.regWr o v)) = .ok (.regWr o v) := by
  obtain ⟨ha, hcmd⟩ := wellFormed_regWr_iff.mp h
  refine (decode_bus_write (decodeDescriptor_writeDescriptor ha) v).trans (congrArg _ ?_)
  split
  · next ho => rw [decodeCmdWrite_of_not_mem (hcmd ho), ho]
  · rfl

/-- Settles O29: a command goes over CMD, a register access over its descriptor, an event over its code. -/
theorem decodeInvertsEncode : Obligations.DecodeInvertsEncode := by
  intro i h
  cases i with
  | init => exact decode_commandWrite 1
  | pack => exact decode_commandWrite 2
  | send => exact decode_commandWrite 3
  | validate => exact decode_commandWrite 4
  | clrerr => exact decode_commandWrite 5
  | regRd o => exact decode_bus_read (decodeDescriptor_readDescriptor h) 0
  | regWr o v => exact decode_encode_regWr h
  | decode | tick | rxArrive bytes | txDone | reset => rfl

theorem decode_bus_wellFormed {d : BitVec 11} {v : Word} {i : Instr} (h : decode (.bus d v) = .ok i) :
    i.wellFormed = true := by
  obtain ⟨o, ha, hd | hd⟩ | hd := decodeDescriptor_cases d
  · rw [decode_bus_read hd, Except.ok.injEq] at h
    exact h ▸ ha
  · rw [decode_bus_write hd, Except.ok.injEq] at h
    subst h
    split
    · exact decodeCmdWrite_wellFormed v
    · next ho => exact wellFormed_regWr_iff.mpr ⟨ha, fun hcmd => absurd hcmd ho⟩
  · rw [decode_bus_badAccess hd] at h
    cases h

/-- An event but an arrival is an operation with no operands (30_encoding.md R81). -/
theorem decodeEvent_wellFormed {code : Word} {bytes : List Byte} {i : Instr} (h : decodeEvent code bytes = some i) :
    i = .rxArrive bytes ∨ i.wellFormed = true := by
  unfold decodeEvent at h
  split at h <;> cases h
  · exact .inr rfl
  · exact .inr rfl
  · exact .inl rfl
  · exact .inr rfl
  · exact .inr rfl

theorem decode_event_eq_ok {code : Word} {bytes : List Byte} {i : Instr} :
    decode (.event code bytes) = .ok i ↔ decodeEvent code bytes = some i := by
  cases h : decodeEvent code bytes <;> simp [decode, h]

/-- Settles O30: the bus gives aligned accesses and commands, a port gives an operation with no operands or an arrival. -/
theorem decodedInstructionsAreWellFormed : Obligations.DecodedInstructionsAreWellFormed := by
  intro t i h hrx
  cases t with
  | bus d v => exact decode_bus_wellFormed h
  | event code bytes => exact (decodeEvent_wellFormed (decode_event_eq_ok.mp h)).resolve_left (hrx bytes)

/-- Settles O27: the decoder evaluated at each of the spec's words. -/
theorem specWordsDecodeToTheirOperations : Obligations.SpecWordsDecodeToTheirOperations :=
  ⟨rfl, rfl, rfl, rfl, rfl, rfl, rfl, rfl, rfl, rfl, rfl, rfl, rfl⟩

/-! ### The CRC of the outbound frame (30_encoding.md R73) -/

/-- Settles O53: TXBUF and OUTREC_CRC are written only together, by PACK_FN, or emptied together by reset. -/
theorem stepKeepsOutboundSound : Obligations.StepKeepsOutboundSound := fun _ _ =>
  Machine.State.OutboundSound.after_step

end Sys2Proof
end

section
/-! Proofs of the statements of 40_crc_validator.md: VALIDATE, the frame with one flipped bit, and the default instance
CRC_STM32 of the primitive. -/

namespace Sys2Proof.Machine

/-! ### VALIDATE (40_crc_validator.md R103, R105) -/

/-- The three words of the CRC, byte by byte (30_encoding.md R74). -/
theorem crcWordList_eq_append (m : Memory) :
    crcWordList m =
      [m.read 3 ++ m.read 2 ++ m.read 1 ++ m.read 0, m.read 7 ++ m.read 6 ++ m.read 5 ++ m.read 4,
       m.read 11 ++ m.read 10 ++ m.read 9 ++ m.read 8] := by
  rw [crcWordList, le32_eq_append, le32_eq_append, le32_eq_append]
  rfl

/-- The CRC field, byte by byte (30_encoding.md R75). -/
theorem crcField_eq_append (m : Memory) :
    crcField m = m.read 15 ++ m.read 14 ++ m.read 13 ++ m.read 12 := le32_eq_append m 12 (by decide)

/-- Settles O8: VALIDATE's one update, with the words of RXBUF spelt byte by byte. -/
theorem validateReportsTheCrcCheck : Obligations.ValidateReportsTheCrcCheck := by
  refine ⟨decode_commandWrite 4, ?_⟩
  rintro s _ _ _ rfl rfl rfl
  rw [← crcWordList_eq_append, ← crcField_eq_append]
  rfl

/-! ### One written byte of the prefix (40_crc_validator.md R102) -/

/-- Writing another value to a byte below offset 12 changes exactly one of the three words of the CRC. -/
theorem crcWordList_write {m : Memory} (hm : m.wf) {a : FrameAddr} {v : Byte} (ha : a.val < 12) (hv : v ≠ m.read a) :
    ∃ (before after : List Word) (w w' : Word), w' ≠ w ∧
      crcWordList m = before ++ w :: after ∧ crcWordList (m.write a v) = before ++ w' :: after := by
  have outside := le32_write_outside hm a v
  have inside := fun o ho hi => le32_write_inside hm a v o ho hi hv
  have hcases : a.val ≤ 3 ∨ (4 ≤ a.val ∧ a.val ≤ 7) ∨ 8 ≤ a.val := by omega
  obtain hw | hw | hw := hcases
  · refine ⟨[], [le32 m 4, le32 m 8], _, _, inside 0 (by decide) (by omega), rfl, ?_⟩
    rw [crcWordList, outside 4 _ (by omega), outside 8 _ (by omega), List.nil_append]
  · refine ⟨[le32 m 0], [le32 m 8], _, _, inside 4 (by decide) (by omega), rfl, ?_⟩
    rw [crcWordList, outside 0 _ (by omega), outside 8 _ (by omega), List.singleton_append]
  · refine ⟨[le32 m 0, le32 m 4], [], _, _, inside 8 (by decide) (by omega), rfl, ?_⟩
    rw [crcWordList, outside 0 _ (by omega), outside 4 _ (by omega)]
    rfl

/-- A write below offset 12 leaves the CRC field as it is (30_encoding.md R75). -/
theorem crcField_write {m : Memory} (hm : m.wf) {a : FrameAddr} (v : Byte) (ha : a.val < 12) :
    crcField (m.write a v) = crcField m :=
  le32_write_outside hm a v 12 (by decide) (by omega)

/-- A DECODE of a frame UNPACK_FN refuses touches neither INREC nor LINK_CNT (44_session.md R195). -/
theorem decodeUnder_of_unpack_none {cfg : Config} {s : State} (hu : unpackFn cfg s.rxbuf = none) :
    (decodeUnder cfg s).inrec = s.inrec ∧ (decodeUnder cfg s).linkCnt = s.linkCnt := by
  obtain ⟨-, heq⟩ | ⟨-, r, hr, -⟩ | ⟨-, -, heq⟩ := decodeUnder_cases cfg s
  · rw [heq]
    exact ⟨rfl, rfl⟩
  · cases hu.symm.trans hr
  · rw [heq]
    exact ⟨rfl, rfl⟩

/-- Settles O45: the flip changes the CRC and not the CRC field, so the frame that matched no longer does. -/
theorem oneFlippedBitIsDropped : Obligations.OneFlippedBitIsDropped := by
  refine ⟨fun _ => rfl, fun cfg hsingle s m a j hm ha hgood hrx => ?_⟩
  have hbad : crcOf cfg s.rxbuf ≠ crcField s.rxbuf := by
    rw [hrx, crcField_write hm _ ha, ← hgood]
    exact hsingle m a j hm ha
  have hu : unpackFn cfg s.rxbuf = none := unpackFn_eq_none.mpr (.inr hbad)
  exact ⟨hu, decodeUnder_of_unpack_none hu⟩

/-! ### CRC_STM32 (40_crc_validator.md R101) -/

/-- The words still to come cannot bring two running values of CRC_STM32 together. -/
theorem foldl_crcStm32Word_inj {ws : List Word} {c d : Word}
    (h : ws.foldl crcStm32Word c = ws.foldl crcStm32Word d) : c = d := by
  induction ws generalizing c d with
  | nil => exact h
  | cons w ws ih => exact crcStm32Word_inj_left (ih h)

/-- CRC_STM32 tells two word lists apart that differ in one word. -/
theorem crcStm32_replace_word_inj {before after : List Word} {w w' : Word}
    (h : crcStm32 (before ++ w :: after) = crcStm32 (before ++ w' :: after)) : w = w' := by
  simp only [crcStm32, List.foldl_append, List.foldl_cons] at h
  exact crcStm32Word_inj_right (foldl_crcStm32Word_inj h)

/-- Settles O46: a flipped bit changes one word, and CRC_STM32 is one to one in each word. -/
theorem defaultCrcDetectsEverySingleBit : Obligations.DefaultCrcDetectsEverySingleBit := by
  intro m a j hm ha heq
  obtain ⟨before, after, w, w', hne, hold, hnew⟩ := crcWordList_write hm ha (flip_ne (m.read a) j)
  rw [hold, hnew] at heq
  exact hne (crcStm32_replace_word_inj heq)

end Sys2Proof.Machine
end

section
/-! Proofs of the statements of 41_frame_codec.md: the soundness of INREC, PACK while a transmit is and is not in
flight, the frame it builds byte by byte, and the round trip through UNPACK_FN. -/

namespace Sys2Proof.Machine

/-! ### Corrupt data never reaches INREC (41_frame_codec.md R125) -/

/-- Settles O54: INREC is written only by an accepted frame, whose record UNPACK_FN vouches for, and by reset. -/
theorem stepKeepsInboundSound : Obligations.StepKeepsInboundSound := fun _ _ => State.InboundSound.after_step

/-! ### PACK (41_frame_codec.md R122) -/

theorem exec_pack_idle {s : State} (h : s.status.txBusy = false) : exec .pack s = .next (packFn Config.hw s) := by
  obtain ⟨hbusy, -⟩ | ⟨-, heq⟩ := packUnder_cases Config.hw s
  · cases h.symm.trans hbusy
  · exact congrArg Host.Outcome.next heq

theorem exec_pack_busy {s : State} (h : s.status.txBusy = true) : exec .pack s = .next (s.raiseError .txOverrun) := by
  obtain ⟨-, heq⟩ | ⟨hidle, -⟩ := packUnder_cases Config.hw s
  · exact congrArg Host.Outcome.next heq
  · cases h.symm.trans hidle

/-- Settles O5: TX_BUSY alone decides, and PACK_FN touches neither STATUS nor FAULTS. -/
theorem packIsTurnedAwayWhileBusy : Obligations.PackIsTurnedAwayWhileBusy :=
  ⟨decode_commandWrite 2, fun s =>
    ⟨fun hidle => ⟨_, exec_pack_idle hidle, rfl, packFn_status _ s, packFn_faults _ s⟩, exec_pack_busy⟩⟩

/-! ### The frame byte by byte (41_frame_codec.md R120) -/

/-- Two neighbouring bytes of a word are the 16 bits they cover. -/
theorem append_neighbouring_bytes {n : Nat} (v : BitVec n) (k : Nat) :
    v.extractLsb' (k + 8) 8 ++ v.extractLsb' k 8 = v.extractLsb' k 16 :=
  BitVec.extractLsb'_append_extractLsb'_eq_extractLsb' rfl

/-- At these widths appending is associative as it stands, without the cast of `BitVec.append_assoc`. -/
theorem append_two_bytes (a : Half) (b c : Byte) : a ++ b ++ c = a ++ (b ++ c) := by
  rw [BitVec.append_assoc]
  rfl

/-- The three words the CRC of a packed record is taken over, field by field (30_encoding.md R71, R74). -/
theorem crcWordList_packPrefix (r : OutRec) :
    crcWordList (packPrefix r) =
      [r.pitch.extractLsb' 0 16 ++ r.fire ++ r.sof, r.yaw.extractLsb' 0 16 ++ r.pitch.extractLsb' 16 16,
       r.rsvd ++ r.yaw.extractLsb' 16 16] := by
  have hpitch := append_neighbouring_bytes r.pitch
  have hyaw := append_neighbouring_bytes r.yaw
  have hrsvd : r.rsvd.extractLsb' 8 8 ++ r.rsvd.extractLsb' 0 8 = r.rsvd :=
    (append_neighbouring_bytes r.rsvd 0).trans BitVec.extractLsb'_eq_self
  have hword0 : r.pitch.extractLsb' 8 8 ++ r.pitch.extractLsb' 0 8 ++ r.fire ++ r.sof =
      r.pitch.extractLsb' 0 16 ++ r.fire ++ r.sof := by rw [hpitch 0]
  have hword1 : r.yaw.extractLsb' 8 8 ++ r.yaw.extractLsb' 0 8 ++ r.pitch.extractLsb' 24 8 ++ r.pitch.extractLsb' 16 8 =
      r.yaw.extractLsb' 0 16 ++ r.pitch.extractLsb' 16 16 := by rw [append_two_bytes, hpitch 16, hyaw 0]
  have hword2 : r.rsvd.extractLsb' 8 8 ++ r.rsvd.extractLsb' 0 8 ++ r.yaw.extractLsb' 24 8 ++ r.yaw.extractLsb' 16 8 =
      r.rsvd ++ r.yaw.extractLsb' 16 16 := by rw [append_two_bytes, hyaw 16, hrsvd]
  rw [crcWordList_eq_append, ← hword0, ← hword1, ← hword2]
  simp [packPrefix_read]

/-- The 16 bytes of the packed frame: the fields at their offsets, then the CRC (30_encoding.md R71, R75). -/
theorem packFrame_bytes (cfg : Config) (r : OutRec) :
    (packFrame cfg r).bytes =
      [r.sof, r.fire,
       r.pitch.extractLsb' 0 8, r.pitch.extractLsb' 8 8, r.pitch.extractLsb' 16 8, r.pitch.extractLsb' 24 8,
       r.yaw.extractLsb' 0 8, r.yaw.extractLsb' 8 8, r.yaw.extractLsb' 16 8, r.yaw.extractLsb' 24 8,
       r.rsvd.extractLsb' 0 8, r.rsvd.extractLsb' 8 8,
       (crcOf cfg (packPrefix r)).extractLsb' 0 8, (crcOf cfg (packPrefix r)).extractLsb' 8 8,
       (crcOf cfg (packPrefix r)).extractLsb' 16 8, (crcOf cfg (packPrefix r)).extractLsb' 24 8] := by
  simp [Memory.bytes, packFrame, Memory.read_write32 _ (packPrefix_wf r), packPrefix_read]

/-- Settles O4: the bytes are `packFrame_bytes`, the words of the CRC `crcWordList_packPrefix`. -/
theorem packWritesTheWireFormat : Obligations.PackWritesTheWireFormat := by
  intro s hidle
  have hcrc : crcOf Config.hw (packPrefix s.outrec) = Config.hw.crcWords _ :=
    congrArg Config.hw.crcWords (crcWordList_packPrefix s.outrec)
  refine ⟨packFn Config.hw s, _, _, _, _, exec_pack_idle hidle, rfl, rfl, rfl, hcrc, ?bytes, ?frame⟩
  case bytes => rw [packFn_txbuf, packFrame_bytes]
  case frame =>
    rw [← crcWordList_packPrefix]
    rfl

/-! ### The round trip (41_frame_codec.md R128) -/

/-- UNPACK_FN takes the record back out of the frame it was packed in. -/
theorem unpackFn_packFrame {cfg : Config} {r : OutRec} (hsof : r.sof = cfg.rxSof) :
    unpackFn cfg (packFrame cfg r) = some
      { sof := r.sof, fire := r.fire, pitch := r.pitch, yaw := r.yaw, rsvd := r.rsvd,
        crc := crcOf cfg (packPrefix r) } := by
  obtain ⟨hread, -⟩ := packPrefix_fields r
  refine unpackFn_eq_some.mpr ⟨?sentinel, ?crc, frameRecord_packFrame cfg r⟩
  case sentinel => rw [packFrame_read_prefix cfg r 0 (by decide), hread, hsof]
  case crc => rw [crcOf_packFrame, crcField_packFrame]

/-- Settles O43: PACK leaves in TXBUF the frame of OUTREC, and in OUTREC_CRC that frame's CRC. -/
theorem packedFrameUnpacksToTheRecord : Obligations.PackedFrameUnpacksToTheRecord := by
  intro s t hidle hsof hpack
  rw [exec_pack_idle hidle, Host.Outcome.next.injEq] at hpack
  subst hpack
  rw [packFn_txbuf, packFn_outrecCrc]
  exact unpackFn_packFrame hsof

end Sys2Proof.Machine
end

section
/-! Proofs of the statements of 42_transport_ports.md: the frame in flight, RX_ARRIVE with its one receive slot, and
TX_DONE. -/

namespace Sys2Proof.Machine

/-! ### The frame in flight (42_transport_ports.md R145) -/

/-- Settles O52: TXBUF is written only while nothing is in flight, or by reset, and the one TxSend hands over the frame
SEND has just packed there. -/
theorem stepKeepsTheFrameInFlight : Obligations.StepKeepsTheFrameInFlight := fun _ _ => State.TransmitHeld.after_step

/-! ### RX_ARRIVE (42_transport_ports.md R141 to R144) -/

section
variable {bytes : List Byte} {s : State}

theorem exec_rxArrive_frame (hlen : bytes.length = 16) (s : State) :
    exec (.rxArrive bytes) s = .next (frameArrived bytes s) := if_pos hlen

theorem exec_rxArrive_wrong_length (hlen : bytes.length ≠ 16) (s : State) :
    exec (.rxArrive bytes) s = .refused .rxLength := if_neg hlen

theorem frameArrived_before_init (hinit : s.status.initDone = false) : frameArrived bytes s = s := by
  obtain ⟨-, heq⟩ | ⟨hdone, -⟩ := frameArrived_cases bytes s
  · exact heq
  · cases hinit.symm.trans hdone

theorem frameArrived_after_init (hinit : s.status.initDone = true) :
    frameArrived bytes s = { s with rxbuf := Memory.ofBytes bytes, status := s.status.setRxPending true } := by
  obtain ⟨hnot, -⟩ | ⟨-, heq⟩ := frameArrived_cases bytes s
  · cases hnot.symm.trans hinit
  · exact heq

/-- There is one receive slot, and the second arrival writes everything the first wrote (42_transport_ports.md R144). -/
theorem frameArrived_frameArrived (first second : List Byte) (s : State) :
    frameArrived second (frameArrived first s) = frameArrived second s := by
  cases hinit : s.status.initDone with
  | false => rw [frameArrived_before_init (bytes := first) hinit]
  | true =>
    rw [frameArrived_after_init (bytes := first) hinit, frameArrived_after_init hinit]
    exact frameArrived_after_init hinit

end

/-- Settles O13: by the length and INIT_DONE; the buffer laid out from 16 bytes holds them in order. -/
theorem rxArriveStoresTheFrame : Obligations.RxArriveStoresTheFrame := by
  refine ⟨fun _ => rfl, fun s bytes => ⟨fun hlen hinit => ?stored, fun hlen hinit => ?ignored, fun hlen => ?refused⟩⟩
  case stored =>
    rw [exec_rxArrive_frame hlen, frameArrived_after_init hinit]
    exact ⟨_, rfl, Memory.bytes_ofBytes bytes hlen, rfl⟩
  case ignored => rw [exec_rxArrive_frame hlen, frameArrived_before_init hinit]
  case refused => exact exec_rxArrive_wrong_length hlen s

/-- Settles O14: only 16 bytes arrive at all, and a second 16 overwrite them; any other second arrival is refused in
either state. -/
theorem secondArrivalReplacesThePendingFrame : Obligations.SecondArrivalReplacesThePendingFrame := by
  intro s t first second harrive
  by_cases hfirst : first.length = 16
  · rw [exec_rxArrive_frame hfirst, Host.Outcome.next.injEq] at harrive
    subst harrive
    by_cases hsecond : second.length = 16
    · rw [exec_rxArrive_frame hsecond, exec_rxArrive_frame hsecond, frameArrived_frameArrived]
    · rw [exec_rxArrive_wrong_length hsecond, exec_rxArrive_wrong_length hsecond]
  · rw [exec_rxArrive_wrong_length hfirst] at harrive
    cases harrive

/-! ### TX_DONE (42_transport_ports.md R146, R147) -/

theorem exec_txDone_idle {s : State} (hidle : s.status.txBusy = false) : exec .txDone s = .next s := by
  simp [exec, execTxDone, hidle]

theorem exec_txDone_busy {s : State} (hbusy : s.status.txBusy = true) :
    exec .txDone s = .next { s with status := s.status.setTxBusy false } := by
  simp [exec, execTxDone, hbusy]

/-- Writing TX_BUSY the value it has changes nothing. -/
theorem Status.setTxBusy_eq_self {f : Status} {v : Bool} (h : f.txBusy = v) : f.setTxBusy v = f := by
  subst h
  rfl

/-- Settles O15: with nothing in flight the write of 0 that R146 states is the step without effect of R147. -/
theorem txDoneClearsBusy : Obligations.TxDoneClearsBusy := by
  refine ⟨rfl, fun s => ⟨?_, exec_txDone_idle⟩⟩
  change exec .txDone s = .next { s with status := s.status.setTxBusy false }
  cases htx : s.status.txBusy with
  | false => rw [exec_txDone_idle htx, Status.setTxBusy_eq_self htx]
  | true => exact exec_txDone_busy htx

end Sys2Proof.Machine
end

section
/-! Proofs of the statements of 43_link_supervisor.md: the bounds of the counter, a tick, what leaves the counter alone,
and how many expiries a run of ticks holds. -/

namespace Sys2Proof.Machine

/-! ### The bounds of the counter (43_link_supervisor.md R170) -/

/-- Settles O49: INIT, a decode success and an expiry set the counter to a threshold that is at least 1, and a tick that
does not expire leaves at least 1. -/
theorem stepKeepsSupervisorBounded : Obligations.StepKeepsSupervisorBounded := fun _ _ =>
  State.SupervisorBounded.after_step

/-! ### A tick (43_link_supervisor.md R163 to R165) -/

section
variable {s : State}

theorem exec_tick_before_init (hinit : s.status.initDone = false) : exec .tick s = .next s := by
  obtain ⟨-, heq⟩ | ⟨hdone, -⟩ | ⟨hdone, -⟩ := tickState_cases s
  · exact congrArg Host.Outcome.next heq
  · cases hinit.symm.trans hdone
  · cases hinit.symm.trans hdone

theorem exec_tick_counts_down (hinit : s.status.initDone = true) (hne : s.linkCnt ≠ 1) :
    exec .tick s = .next (countDown s) := by
  obtain ⟨hnot, -⟩ | ⟨-, hzero, -⟩ | ⟨-, -, heq⟩ := tickState_cases s
  · cases hnot.symm.trans hinit
  · exact absurd (by bv_omega) hne
  · exact congrArg Host.Outcome.next heq

theorem exec_tick_expires (hinit : s.status.initDone = true) (hone : s.linkCnt = 1) :
    exec .tick s = .next (expire (countDown s)) := by
  obtain ⟨hnot, -⟩ | ⟨-, -, heq⟩ | ⟨-, hpos, -⟩ := tickState_cases s
  · cases hnot.symm.trans hinit
  · exact congrArg Host.Outcome.next heq
  · exact absurd (by bv_omega) hpos

end

/-- Settles O12, by INIT_DONE and by whether the counter stands at 1; an expiry appends its two events
one by one. -/
theorem tickCountsDownAndExpires : Obligations.TickCountsDownAndExpires := by
  refine ⟨rfl, fun s => ⟨exec_tick_before_init, exec_tick_counts_down, fun hinit hone => ?_⟩⟩
  rw [exec_tick_expires hinit hone, List.append_cons]
  rfl

/-! ### Expiries (43_link_supervisor.md R165) -/

section
variable {i : Instr} {s t u : State}

/-- From `s` to `t` the block expires `n` times: each expiry emits one ReinitReq and one Diag(LINK_OFFLINE). -/
def State.ExpiresTo (s t : State) (n : Nat) : Prop :=
  t.hist.count .reinitReq = s.hist.count .reinitReq + n ∧
  t.hist.count (.diag .linkOffline) = s.hist.count (.diag .linkOffline) + n

theorem State.ExpiresTo.trans {m n : Nat} (h : s.ExpiresTo t m) (h' : t.ExpiresTo u n) : s.ExpiresTo u (m + n) := by
  obtain ⟨hreinit, hdiag⟩ := h
  obtain ⟨hreinit', hdiag'⟩ := h'
  exact ⟨by omega, by omega⟩

/-- Appending events expires as often as they hold ReinitReq and Diag(LINK_OFFLINE). -/
theorem State.ExpiresTo.of_events {es : List Event} {n : Nat} (hh : t.hist = s.hist ++ es)
    (hreinit : es.count .reinitReq = n) (hdiag : es.count (.diag .linkOffline) = n) : s.ExpiresTo t n := by
  simp [State.ExpiresTo, hh, hreinit, hdiag]

theorem State.ExpiresTo.of_hist_eq (hh : t.hist = s.hist) : s.ExpiresTo t 0 :=
  .of_events (hh.trans (List.append_nil _).symm) rfl rfl

theorem State.expiresTo_expire (s : State) : s.ExpiresTo (expire s) 1 :=
  .of_events ((expire_hist s).trans (List.append_assoc _ _ _)) rfl rfl

/-- The check of a frame emits at most a CrcCall (41_frame_codec.md R124). -/
theorem unpackEvents_no_expiry (cfg : Config) (m : Memory) :
    (unpackEvents cfg m).count .reinitReq = 0 ∧ (unpackEvents cfg m).count (.diag .linkOffline) = 0 := by
  unfold unpackEvents
  split <;> exact ⟨rfl, rfl⟩

/-! ### What leaves the supervisor alone (43_link_supervisor.md R169) -/

/-- From `s` to `t` the supervisor is left alone: INIT_DONE, LINK_CNT and LINK_THR are kept and nothing expires. -/
structure State.SupervisorKept (s t : State) : Prop where
  initDone : t.status.initDone = s.status.initDone
  linkCnt : t.linkCnt = s.linkCnt
  linkThr : t.linkThr = s.linkThr
  expiresTo : s.ExpiresTo t 0

/-- After INIT only a tick, RESET and a decode success touch the supervisor. -/
theorem Effect.supervisorKept (e : Effect i s t) (hinit : s.status.initDone = true) (htick : i ≠ .tick)
    (hreset : i ≠ .reset) (hdecode : i = .decode → decodeSucceeds Config.hw s = false) : s.SupervisorKept t := by
  cases e with
  | armed _ hnot _ => cases hnot.symm.trans hinit
  | accepted r he hu => cases (hdecode rfl).symm.trans (decodeSucceeds_of_unpack he hu)
  | ticked _ _ => exact absurd rfl htick
  | expired _ _ => exact absurd rfl htick
  | reset => exact absurd rfl hreset
  | raised c _ => exact ⟨rfl, rfl, rfl, .of_events (State.raiseError_hist c s) rfl rfl⟩
  | readRefused _ => exact ⟨rfl, rfl, rfl, .of_events (State.raiseError_hist _ s) rfl rfl⟩
  | packed _ _ => exact ⟨rfl, rfl, rfl, .of_events (packFn_hist _ _) rfl rfl⟩
  | sent _ _ _ => exact ⟨rfl, rfl, rfl, .of_events ((transmit_hist _ _).trans (List.append_assoc _ _ _)) rfl rfl⟩
  | validated _ => exact ⟨rfl, rfl, rfl, .of_events (validateUnder_hist _ _) rfl rfl⟩
  | dropped _ _ =>
    obtain ⟨hreinit, hdiag⟩ := unpackEvents_no_expiry Config.hw s.rxbuf
    exact ⟨rfl, rfl, rfl, .of_events (takePending_hist _ _) hreinit hdiag⟩
  | _ => exact ⟨rfl, rfl, rfl, .of_hist_eq rfl⟩

end

/-- Settles O37: LINK_CNT is part of what such an operation keeps of the supervisor. -/
theorem onlyADecodeSuccessReloads : Obligations.OnlyADecodeSuccessReloads :=
  fun _ _ _ hexec hinit htick hreset hdecode =>
    ((exec_effect hexec).supervisorKept hinit htick hreset hdecode).linkCnt

/-! ### Expiries over a run (43_link_supervisor.md R168) -/

section
variable {i : Instr} {s t u : State} {k n : Nat}

/-- The state `t` is `k` ticks and `n` expiries after `s`, with no reload between: the ticks and what the counter has
still to count make up the `n` periods that ended and the one that runs. -/
structure State.AfterTicks (s : State) (k n : Nat) (t : State) : Prop where
  initDone : t.status.initDone = true
  bounded : t.SupervisorBounded
  linkThr : t.linkThr = s.linkThr
  expiresTo : s.ExpiresTo t n
  periods : k + t.linkCnt.toNat = n * s.linkThr.toNat + s.linkThr.toNat

theorem State.AfterTicks.linkCnt_bounds (h : s.AfterTicks k n t) :
    1 ≤ t.linkCnt.toNat ∧ t.linkCnt.toNat ≤ s.linkThr.toNat := by
  obtain ⟨hlo, hhi⟩ := h.bounded.1 h.initDone
  exact ⟨hlo, h.linkThr ▸ hhi⟩

theorem State.afterTicks_zero (hinit : s.status.initDone = true) (hthr : s.linkThr ≠ 0) (hcnt : s.linkCnt = s.linkThr) :
    s.AfterTicks 0 0 s where
  initDone := hinit
  bounded := .of_initDone hinit (by bv_omega) (hcnt ▸ BitVec.le_refl _)
  linkThr := rfl
  expiresTo := .of_hist_eq rfl
  periods := by rw [hcnt, Nat.zero_mul]

theorem State.AfterTicks.after_kept (h : s.AfterTicks k n t) (hk : t.SupervisorKept u) (hb : u.SupervisorBounded) :
    s.AfterTicks k n u where
  initDone := hk.initDone.trans h.initDone
  bounded := hb
  linkThr := hk.linkThr.trans h.linkThr
  expiresTo := h.expiresTo.trans hk.expiresTo
  periods := hk.linkCnt ▸ h.periods

theorem State.AfterTicks.after_countDown (h : s.AfterTicks k n t) (hb : (countDown t).SupervisorBounded) :
    s.AfterTicks (k + 1) n (countDown t) where
  initDone := h.initDone
  bounded := hb
  linkThr := h.linkThr
  expiresTo := h.expiresTo.trans (.of_hist_eq rfl)
  periods := by
    obtain ⟨hlo, -⟩ := h.linkCnt_bounds
    have hcnt : (t.linkCnt - 1).toNat + 1 = t.linkCnt.toNat := by bv_omega
    rw [countDown_linkCnt, ← h.periods, ← hcnt, Nat.add_right_comm, Nat.add_assoc]

theorem State.AfterTicks.after_expire (h : s.AfterTicks k n t) (hone : t.linkCnt = 1)
    (hb : (expire (countDown t)).SupervisorBounded) :
    s.AfterTicks (k + 1) (n + 1) (expire (countDown t)) where
  initDone := h.initDone
  bounded := hb
  linkThr := h.linkThr
  expiresTo := h.expiresTo.trans (State.expiresTo_expire (countDown t))
  periods := by
    have hperiods : k + 1 = n * s.linkThr.toNat + s.linkThr.toNat := by simpa [hone] using h.periods
    rw [expire_linkCnt, countDown_linkThr, h.linkThr, hperiods, Nat.succ_mul]

/-- One operation of a run without a reload: a tick counts down or expires, any other leaves the supervisor alone. -/
theorem State.AfterTicks.after_exec (h : s.AfterTicks k n t) (hexec : exec i t = .next u) (hreset : i ≠ .reset)
    (hdecode : i = .decode → decodeSucceeds Config.hw t = false) :
    ∃ n', s.AfterTicks (k + [i].count .tick) n' u := by
  have hb := (exec_effect hexec).supervisorBounded h.bounded
  by_cases htick : i = .tick
  · subst htick
    by_cases hone : t.linkCnt = 1
    · rw [exec_tick_expires h.initDone hone, Host.Outcome.next.injEq] at hexec
      subst hexec
      exact ⟨_, h.after_expire hone hb⟩
    · rw [exec_tick_counts_down h.initDone hone, Host.Outcome.next.injEq] at hexec
      subst hexec
      exact ⟨_, h.after_countDown hb⟩
  · have hk := (exec_effect hexec).supervisorKept h.initDone htick hreset hdecode
    rw [List.count_singleton, beq_false_of_ne htick]
    exact ⟨n, h.after_kept hk hb⟩

theorem State.AfterTicks.after_run {is : List Instr} (h : s.AfterTicks k n t) (hno : NoReload is t)
    (hrun : runInstrs is t = .next u) : ∃ n', s.AfterTicks (k + is.count .tick) n' u := by
  induction is generalizing t k n with
  | nil =>
    cases hrun
    exact ⟨n, h⟩
  | cons i is ih =>
    obtain ⟨hreset, hdecode, hrest⟩ := hno
    simp only [runInstrs] at hrun
    split at hrun
    · next v hexec =>
      obtain ⟨m, hm⟩ := h.after_exec hexec hreset hdecode
      obtain ⟨n', hn'⟩ := ih hm (hrest v hexec) hrun
      rw [Nat.add_assoc, ← List.count_append] at hn'
      exact ⟨n', hn'⟩
    · cases hrun
    · cases hrun

/-- Since the counter lies between 1 and the threshold, the expiries are the quotient, and what it has counted of the
period that runs is the remainder. -/
theorem State.AfterTicks.div_mod (h : s.AfterTicks k n t) :
    k / s.linkThr.toNat = n ∧ k % s.linkThr.toNat = s.linkThr.toNat - t.linkCnt.toNat := by
  have hperiods := h.periods
  obtain ⟨hlo, hhi⟩ := h.linkCnt_bounds
  refine (Nat.div_mod_unique (by omega)).mpr ⟨?_, by omega⟩
  rw [Nat.mul_comm]
  omega

end

/-- Settles O42: the end of the run is its ticks and some number of expiries after the start, and the
counter's bounds leave one such number. -/
theorem oneExpiryPerThresholdOfTicks : Obligations.OneExpiryPerThresholdOfTicks := by
  intro is s t hinit hthr hcnt hno hrun
  obtain ⟨n, hafter⟩ := (State.afterTicks_zero hinit hthr hcnt).after_run hno hrun
  rw [Nat.zero_add] at hafter
  obtain ⟨hdiv, hmod⟩ := hafter.div_mod
  obtain ⟨hreinit, hdiag⟩ := hafter.expiresTo
  obtain ⟨-, hhi⟩ := hafter.linkCnt_bounds
  rw [hdiv, hmod, Nat.sub_sub_self hhi]
  exact ⟨hreinit, hdiag, rfl, hafter.linkThr⟩

end Sys2Proof.Machine
end

section
/-! Proofs of the statements of 44_session.md: INIT, SEND and CLRERR, the decode callback alone and over the ports, and
the host's reads and writes of the register window. -/

namespace Sys2Proof.Machine

/-! ### INIT (44_session.md R181) -/

section
variable {s : State}

theorem exec_init_again (hinit : s.status.initDone = true) : exec .init s = .next (s.raiseError .alreadyInit) := by
  obtain ⟨-, heq⟩ | ⟨hnot, -⟩ | ⟨hnot, -⟩ := initState_cases s
  · exact congrArg Host.Outcome.next heq
  · cases hnot.symm.trans hinit
  · cases hnot.symm.trans hinit

theorem exec_init_zero_threshold (hinit : s.status.initDone = false) (hthr : s.threshold = 0) :
    exec .init s = .next (s.raiseError .badThreshold) := by
  obtain ⟨hdone, -⟩ | ⟨-, -, heq⟩ | ⟨-, hpos, -⟩ := initState_cases s
  · cases hinit.symm.trans hdone
  · exact congrArg Host.Outcome.next heq
  · exact absurd hthr hpos

theorem exec_init_arms (hinit : s.status.initDone = false) (hthr : s.threshold ≠ 0) :
    exec .init s =
      .next { s with linkThr := s.threshold, linkCnt := s.threshold, status := s.status.afterInit } := by
  obtain ⟨hdone, -⟩ | ⟨-, hzero, -⟩ | ⟨-, -, heq⟩ := initState_cases s
  · cases hinit.symm.trans hdone
  · exact absurd hzero hthr
  · exact congrArg Host.Outcome.next heq

end

/-- Settles O3, by INIT_DONE first and then by the threshold. -/
theorem initArmsTheSupervisor : Obligations.InitArmsTheSupervisor :=
  ⟨decode_commandWrite 1, fun _ => ⟨exec_init_arms, exec_init_again, exec_init_zero_threshold⟩⟩

/-! ### SEND (44_session.md R183, R184) -/

section
variable {s : State}

theorem exec_send_before_init (hinit : s.status.initDone = false) : exec .send s = .next (s.raiseError .notInit) := by
  obtain ⟨-, heq⟩ | ⟨hdone, -⟩ | ⟨hdone, -⟩ := sendUnder_cases Config.hw s
  · exact congrArg Host.Outcome.next heq
  · cases hinit.symm.trans hdone
  · cases hinit.symm.trans hdone

theorem exec_send_busy (hinit : s.status.initDone = true) (hbusy : s.status.txBusy = true) :
    exec .send s = .next (s.raiseError .txOverrun) := by
  obtain ⟨hnot, -⟩ | ⟨-, -, heq⟩ | ⟨-, hidle, -⟩ := sendUnder_cases Config.hw s
  · cases hnot.symm.trans hinit
  · exact congrArg Host.Outcome.next heq
  · cases hidle.symm.trans hbusy

theorem exec_send_transmits (hinit : s.status.initDone = true) (hidle : s.status.txBusy = false) :
    exec .send s = .next (transmit Config.hw s) := by
  obtain ⟨hnot, -⟩ | ⟨-, hbusy, -⟩ | ⟨-, -, heq⟩ := sendUnder_cases Config.hw s
  · cases hnot.symm.trans hinit
  · cases hidle.symm.trans hbusy
  · exact congrArg Host.Outcome.next heq

end

/-- A SEND goes on from the state PACK_FN leaves (44_session.md R183). -/
theorem transmit_eq_packFn (cfg : Config) (s : State) :
    transmit cfg s =
      { packFn cfg s with
        hist := (packFn cfg s).hist ++ [.txSend (packFn cfg s).txbuf.bytes]
        status := (packFn cfg s).status.setTxBusy true } := by
  simp only [transmit, State.emit]

/-- Settles O6: the two checks one after the other; a SEND that passes both starts from the state PACK leaves. -/
theorem sendPacksAndTransmits : Obligations.SendPacksAndTransmits := by
  refine ⟨decode_commandWrite 3, fun s => ⟨fun hinit hidle => ?_, exec_send_before_init, exec_send_busy⟩⟩
  refine ⟨packFn Config.hw s, exec_pack_idle hidle, ?_⟩
  rw [exec_send_transmits hinit hidle, transmit_eq_packFn, Status.setTxBusy]

/-- Settles O7: what a SEND packs and hands over is a function of OUTREC alone. -/
theorem identicalRecordsSendIdenticalFrames : Obligations.IdenticalRecordsSendIdenticalFrames := by
  intro s s' t t' hrec hinit hidle hinit' hidle' hsend hsend'
  rw [exec_send_transmits hinit hidle, Host.Outcome.next.injEq] at hsend
  rw [exec_send_transmits hinit' hidle', Host.Outcome.next.injEq] at hsend'
  subst hsend hsend'
  refine ⟨?_, ?_, (packFrame Config.hw s.outrec).bytes, ?_, ?_⟩
  · rw [transmit_txbuf, transmit_txbuf, hrec]
  · rw [transmit_outrecCrc, transmit_outrecCrc, hrec]
  · rw [transmit_hist, List.getLast?_concat]
  · rw [transmit_hist, List.getLast?_concat, hrec]

/-! ### CLRERR (44_session.md R186) -/

/-- Settles O9: CLRERR is the one update `clearError`, in every state. -/
theorem clrerrClearsTheLatchOnly : Obligations.ClrerrClearsTheLatchOnly :=
  ⟨decode_commandWrite 5, fun _ => rfl⟩

/-! ### DECODE (44_session.md R193 to R195) -/

/-- The three ways in which a DECODE is not enabled (44_session.md R193). -/
theorem decodeEnabled_eq_false {s : State}
    (h : s.status.initDone = false ∨ s.status.rxPending = false ∨ s.rxHold = true) : decodeEnabled s = false := by
  obtain h | h | h := h <;> simp [decodeEnabled, h]

theorem exec_decode_not_enabled {s : State} (he : decodeEnabled s = false) : exec .decode s = .next s := by
  simp [exec, execDecode, decodeUnder, he]

/-- Settles O11: each of the three conditions takes the enabling condition away. -/
theorem decodeNotEnabledChangesNothing : Obligations.DecodeNotEnabledChangesNothing := fun _ h =>
  exec_decode_not_enabled (decodeEnabled_eq_false h)

theorem exec_decode_drops {s : State} (he : decodeEnabled s = true) (hu : unpackFn Config.hw s.rxbuf = none) :
    exec .decode s = .next (takePending Config.hw s) := by
  simp only [exec, execDecode, decodeUnder, he, if_true, decodePending, hu]

/-- A frame with the right sentinel leaves its CrcCall behind (41_frame_codec.md R124). -/
theorem takePending_of_sentinel {cfg : Config} {s : State} (h : s.rxbuf.read 0 = cfg.rxSof) :
    takePending cfg s =
      { s with status := s.status.setRxPending false, hist := s.hist ++ [crcCallOf cfg s.rxbuf] } := by
  simp [takePending, unpackEvents, sentinelMatches, h]

/-- A frame with a wrong sentinel leaves no trace but the empty slot (41_frame_codec.md R124). -/
theorem takePending_of_wrong_sentinel {cfg : Config} {s : State} (h : s.rxbuf.read 0 ≠ cfg.rxSof) :
    takePending cfg s = { s with status := s.status.setRxPending false } := by
  simp [takePending, unpackEvents, sentinelMatches, h]

/-- The CrcCall of a frame whose CRC matches reports the CRC the frame carries. -/
theorem crcCallOf_of_valid {cfg : Config} {m : Memory} (h : crcOf cfg m = crcField m) :
    crcCallOf cfg m = .crcCall (crcWordList m) (crcField m) := by
  rw [crcCallOf, h]

/-- The record of a frame, byte by byte (30_encoding.md R71). -/
theorem frameRecord_eq_append (m : Memory) :
    frameRecord m =
      { sof := m.read 0, fire := m.read 1, pitch := m.read 5 ++ m.read 4 ++ m.read 3 ++ m.read 2,
        yaw := m.read 9 ++ m.read 8 ++ m.read 7 ++ m.read 6, rsvd := m.read 11 ++ m.read 10, crc := crcField m } := by
  rw [frameRecord, le32_eq_append m 2, le32_eq_append m 6, le16_eq_append m 10]
  rfl

/-- Settles O10: an enabled DECODE takes the frame out of the slot with the trace its check leaves, and puts the record in
INREC when UNPACK_FN returns one. -/
theorem decodeTakesThePendingFrame : Obligations.DecodeTakesThePendingFrame := by
  refine ⟨rfl, ?_⟩
  rintro s _ _ _ _ hinit hpend hhold rfl rfl rfl rfl
  rw [← crcWordList_eq_append, ← crcField_eq_append]
  have he : decodeEnabled s = true := (decodeEnabled_iff s).mpr ⟨hinit, hpend, hhold⟩
  refine ⟨fun hsof hcrc => ?accepted, fun hsof => ?wrongSentinel, fun hsof hcrc => ?wrongCrc⟩
  case accepted =>
    rw [exec_decode_accepts he (unpackFn_eq_some.mpr ⟨hsof, hcrc, rfl⟩), takePending_of_sentinel hsof,
      crcCallOf_of_valid hcrc, frameRecord_eq_append]
    rfl
  case wrongSentinel =>
    rw [exec_decode_drops he (unpackFn_eq_none.mpr (.inl hsof)), takePending_of_wrong_sentinel hsof]
    rfl
  case wrongCrc =>
    rw [exec_decode_drops he (unpackFn_eq_none.mpr (.inr hcrc)), takePending_of_sentinel hsof]
    rfl

/-! ### The pending frame over a run (44_session.md R193) -/

theorem refuseAccess_schedule (d : BitVec 11) (s : State) : (refuseAccess d s).schedule = s.schedule := by
  obtain h | h := refuseAccess_cases d s
  · rw [h, State.raiseError_schedule]
  · rw [h, State.answer_schedule, State.raiseError_schedule]

/-- A step takes its transaction off the schedule and leaves the rest as it is. -/
theorem step_schedule {s t : State} (h : step s = .next t) : t.schedule = s.schedule.tail := by
  obtain ⟨hs, hstep⟩ | ⟨tr, rest, hs, ⟨i, -, hstep⟩ | ⟨d, v, -, hstep⟩ | hstep⟩ := step_cases s <;> rw [hstep] at h
  · have hsched : t.schedule = s.schedule := exec_schedule (i := .decode) h
    rw [hsched, hs, List.tail_nil]
  · rw [exec_schedule h, hs, List.tail_cons]
  · rw [Host.Outcome.next.injEq] at h
    rw [← h, refuseAccess_schedule, hs, List.tail_cons]
  · cases h

theorem run_schedule {n : Nat} {s t : State} (h : Sys2Proof.core.run n s = .next t) :
    t.schedule = s.schedule.drop n := by
  induction n generalizing s with
  | zero =>
    cases h
    rfl
  | succ n ih =>
    simp only [Host.Core.run] at h
    split at h
    · next u hu => rw [ih h, step_schedule hu, List.drop_tail]
    · cases h
    · cases h

theorem step_idle {s : State} (hs : s.schedule = []) : step s = exec .decode s := by
  simp only [step, fetch, hs, idle, exec, execDecode]

/-- An enabled DECODE empties the receive slot, whatever it makes of the frame (44_session.md R194). -/
theorem exec_decode_clears_pending {s : State} (he : decodeEnabled s = true) :
    ∃ t, exec .decode s = .next t ∧ t.status.rxPending = false := by
  cases hu : unpackFn Config.hw s.rxbuf with
  | some r => exact ⟨_, exec_decode_accepts he hu, rfl⟩
  | none => exact ⟨_, exec_decode_drops he hu, rfl⟩

/-- Settles O34: the run has dropped the whole schedule, so the step is the receive service's. -/
theorem pendingFrameIsTakenInTheEnd : Obligations.PendingFrameIsTakenInTheEnd := by
  intro s t hrun he
  have hsched : t.schedule = [] := (run_schedule hrun).trans List.drop_length
  rw [step_idle hsched]
  exact exec_decode_clears_pending he

/-! ### A packed frame over the ports (44_session.md R180) -/

/-- A good frame delivered to an initialized block that does not hold reception is decoded to its record. -/
theorem runInstrs_rxArrive_decode {m : Memory} {r : State} {rec : InRec} (hm : m.wf)
    (hu : unpackFn Config.hw m = some rec) (hinit : r.status.initDone = true) (hhold : r.rxHold = false) :
    runInstrs [.rxArrive m.bytes, .decode] r =
      .next (acceptRecord rec (takePending Config.hw
        { r with rxbuf := m, status := r.status.setRxPending true })) := by
  have he : decodeEnabled { r with rxbuf := m, status := r.status.setRxPending true } = true :=
    (decodeEnabled_iff _).mpr ⟨hinit, rfl, hhold⟩
  simp only [runInstrs, exec_rxArrive_frame (bytes := m.bytes) rfl, frameArrived_after_init hinit,
    Memory.ofBytes_bytes m hm, exec_decode_accepts he hu]

/-- Settles O44: the delivered bytes lay the packed frame out again, and UNPACK_FN takes the record back out of it. -/
theorem deliveredFrameDecodesToTheRecord : Obligations.DeliveredFrameDecodesToTheRecord := by
  intro s p r u hidle hsof hpack hinit hhold hrun
  rw [exec_pack_idle hidle, Host.Outcome.next.injEq] at hpack
  subst hpack
  rw [packFn_txbuf, runInstrs_rxArrive_decode (packFrame_wf _ _) (unpackFn_packFrame hsof) hinit hhold,
    Host.Outcome.next.injEq] at hrun
  subst hrun
  rw [packFn_outrecCrc]
  exact ⟨rfl, rfl, rfl⟩

/-! ### Register reads (44_session.md R187) -/

/-- Word `k` of a buffer is its four bytes, the last one highest (20_memory.md R53). -/
theorem bufferWord_eq_append (m : Memory) (k : Fin 4) :
    bufferWord m k =
      m.read ⟨4 * k.val + 3, by omega⟩ ++ m.read ⟨4 * k.val + 2, by omega⟩ ++ m.read ⟨4 * k.val + 1, by omega⟩ ++
        m.read ⟨4 * k.val, by omega⟩ :=
  le32_eq_append m (4 * k.val) (by omega)

theorem flagBit_zero (b : Bool) : flagBit b 0 = if b then 1 else 0 := by cases b <;> rfl

/-- Settles O16: the register at each offset, and its word. -/
theorem registerReadsReturnTheRegisters : Obligations.RegisterReadsReturnTheRegisters := by
  intro s o v h
  suffices hreg : ∃ r, regAt o = some r ∧ regValue s r = v by
    obtain ⟨r, hr, rfl⟩ := hreg
    exact exec_regRd_mapped hr s
  obtain ⟨rfl, rfl⟩ | ⟨rfl, rfl⟩ | ⟨rfl, rfl⟩ | ⟨rfl, rfl⟩ | ⟨rfl, rfl⟩ | ⟨rfl, rfl⟩ | ⟨rfl, rfl⟩ | ⟨rfl, rfl⟩ |
    ⟨rfl, rfl⟩ | ⟨rfl, rfl⟩ | ⟨rfl, rfl⟩ | ⟨rfl, rfl⟩ | ⟨rfl, rfl⟩ | ⟨rfl, rfl⟩ | ⟨rfl, rfl⟩ | ⟨rfl, rfl⟩ |
    ⟨rfl, rfl⟩ | ⟨rfl, rfl⟩ | ⟨rfl, rfl⟩ | ⟨rfl, rfl⟩ | ⟨rfl, rfl⟩ | ⟨rfl, rfl⟩ | ⟨rfl, rfl⟩ := h
  · exact ⟨.ctrl, rfl, flagBit_zero s.rxHold⟩
  · exact ⟨.status, rfl, rfl⟩
  · exact ⟨.errcode, rfl, BitVec.setWidth_eq_append (by decide)⟩
  · exact ⟨.cmd, rfl, rfl⟩
  · exact ⟨.threshold, rfl, rfl⟩
  · exact ⟨.linkCnt, rfl, rfl⟩
  · exact ⟨.linkThr, rfl, rfl⟩
  · exact ⟨.inrecHdr, rfl, headerWord_eq_append _ _ _⟩
  · exact ⟨.inrecPitch, rfl, rfl⟩
  · exact ⟨.inrecYaw, rfl, rfl⟩
  · exact ⟨.inrecCrc, rfl, rfl⟩
  · exact ⟨.outrecHdr, rfl, headerWord_eq_append _ _ _⟩
  · exact ⟨.outrecPitch, rfl, rfl⟩
  · exact ⟨.outrecYaw, rfl, rfl⟩
  · exact ⟨.outrecCrc, rfl, rfl⟩
  · exact ⟨.txbuf 0, rfl, bufferWord_eq_append s.txbuf 0⟩
  · exact ⟨.txbuf 1, rfl, bufferWord_eq_append s.txbuf 1⟩
  · exact ⟨.txbuf 2, rfl, bufferWord_eq_append s.txbuf 2⟩
  · exact ⟨.txbuf 3, rfl, bufferWord_eq_append s.txbuf 3⟩
  · exact ⟨.rxbuf 0, rfl, bufferWord_eq_append s.rxbuf 0⟩
  · exact ⟨.rxbuf 1, rfl, bufferWord_eq_append s.rxbuf 1⟩
  · exact ⟨.rxbuf 2, rfl, bufferWord_eq_append s.rxbuf 2⟩
  · exact ⟨.rxbuf 3, rfl, bufferWord_eq_append s.rxbuf 3⟩

/-- A register read, answered or refused, returns one word to the host. -/
theorem exec_regRd_readLog {o : BitVec 8} {s t : State} (h : exec (.regRd o) s = .next t) :
    ∃ v, t.readLog = s.readLog ++ [v] := by
  obtain ⟨hr, -⟩ | ⟨r, hr, -⟩ := execRegRd_cases o s
  · rw [exec_regRd_unmapped hr, Host.Outcome.next.injEq] at h
    exact h ▸ ⟨0, rfl⟩
  · rw [exec_regRd_mapped hr, Host.Outcome.next.injEq] at h
    exact h ▸ ⟨regValue s r, rfl⟩

/-- Only a register read returns a word to the host. -/
theorem Effect.readLog_of_not_read {i : Instr} {s t : State} (e : Effect i s t) (hread : ∀ o, i ≠ .regRd o) :
    t.readLog = s.readLog := by
  cases e with
  | readRefused _ => exact absurd rfl (hread _)
  | readAnswered r _ => exact absurd rfl (hread _)
  | _ => rfl

/-- Settles O39, by whether the operation is a read. -/
theorem onlyReadsAnswerTheHost : Obligations.OnlyReadsAnswerTheHost := by
  intro i s t h
  refine ⟨exec_schedule h, ?_⟩
  by_cases hread : ∃ o, i = .regRd o
  · obtain ⟨o, rfl⟩ := hread
    exact .inl ⟨⟨o, rfl⟩, exec_regRd_readLog h⟩
  · have hread := not_exists.mp hread
    exact .inr ⟨hread, (exec_effect h).readLog_of_not_read hread⟩

/-! ### Register writes (44_session.md R188 to R192) -/

/-- Settles O18: each of the five offsets has its register, whose write is one update. -/
theorem writableRegistersStoreTheWord : Obligations.WritableRegistersStoreTheWord := fun s v =>
  ⟨exec_regWr_mapped (r := .ctrl) rfl v s, exec_regWr_mapped (r := .threshold) rfl v s,
    exec_regWr_mapped (r := .outrecHdr) rfl v s, exec_regWr_mapped (r := .outrecPitch) rfl v s,
    exec_regWr_mapped (r := .outrecYaw) rfl v s⟩

/-- Settles O19: a write that does anything else is at the offset of one of the six writable registers. -/
theorem otherWritesRaiseBadAccess : Obligations.OtherWritesRaiseBadAccess := by
  intro s o v hctrl hcmd hthr hhdr hpitch hyaw
  obtain ⟨hr, -⟩ | ⟨hr, -⟩ | ⟨hr, -⟩ | ⟨-, ⟨hr, -⟩ | ⟨hr, -⟩ | ⟨hr, -⟩, -⟩ | heq := execRegWr_cases o v s
  · exact absurd (regAt_ctrl hr) hctrl
  · exact absurd (regAt_cmd hr) hcmd
  · exact absurd (regAt_threshold hr) hthr
  · exact absurd (regAt_outrecHdr hr) hhdr
  · exact absurd (regAt_outrecPitch hr) hpitch
  · exact absurd (regAt_outrecYaw hr) hyaw
  · exact heq

theorem exec_cmd_write (c : Word) (s : State) : exec (.regWr 0x0C c) s = runCommand c s :=
  exec_regWr_mapped (r := .cmd) rfl c s

theorem exec_cmd_write_eventOnly {c : Word} (hc : decodeCommand c = .eventOnly) (s : State) :
    exec (.regWr 0x0C c) s = .next (s.raiseError .eventOnlyCmd) := by
  simp only [exec_cmd_write, runCommand, hc]

theorem exec_cmd_write_illegal {c : Word} (hc : decodeCommand c = .illegal) (s : State) :
    exec (.regWr 0x0C c) s = .next (s.raiseError .illegalCmd) := by
  simp only [exec_cmd_write, runCommand, hc]

/-- Settles O21: the words 1 to 5 decode to their commands; which other words are event codes and which are illegal is
the command-word decoder's table. -/
theorem cmdWriteRunsTheCommand : Obligations.CmdWriteRunsTheCommand := by
  intro s c
  obtain ⟨-, -, -, -, -, heventOnly, hillegal⟩ := commandWordsDecodeExactly c
  exact ⟨exec_cmd_write 1 s, exec_cmd_write 2 s, exec_cmd_write 3 s, exec_cmd_write 4 s, exec_cmd_write 5 s,
    fun hc => exec_cmd_write_eventOnly (heventOnly.mpr hc) s, fun hc => exec_cmd_write_illegal (hillegal.mpr hc) s⟩

end Sys2Proof.Machine
end

section
/-! Proofs of the statements of 60_exceptions.md: the error sequence, the error as the only effect of the operation that
raises it, NOT_INIT, and the absence of a fatal condition. -/

namespace Sys2Proof.Machine

/-! ### The error sequence (60_exceptions.md R223, R224) -/

/-- Settles O23: the codes are a table, and `raiseError` is the sequence by definition. -/
theorem raiseErrorSequence : Obligations.RaiseErrorSequence :=
  ⟨⟨rfl, rfl, rfl, rfl, rfl, rfl, rfl⟩, fun _ _ => rfl⟩

/-! ### One error, and no other effect (60_exceptions.md R233, R235) -/

section
variable {i : Instr} {s t : State}

/-- Every operation raises the error whose condition it meets, is a read turned away with BAD_ACCESS, or leaves FAULTS
alone. -/
theorem Effect.error_cases (e : Effect i s t) :
    (∃ c, Raises i c s ∧ t = s.raiseError c) ∨
    ((∃ o, i = .regRd o) ∧ t = (s.raiseError .badAccess).answer 0) ∨
    t.faults = s.faults := by
  cases e with
  | raised c hc => exact .inl ⟨c, hc, rfl⟩
  | readRefused _ => exact .inr (.inl ⟨⟨_, rfl⟩, rfl⟩)
  | _ => exact .inr (.inr rfl)

end

/-- Settles O24: an operation that changes FAULTS is in one of the two cases that raise an error. -/
theorem anErrorIsTheOnlyEffect : Obligations.AnErrorIsTheOnlyEffect := by
  intro i s t h hne
  obtain ⟨c, -, ht⟩ | hread | hsame := (exec_effect h).error_cases
  · exact ⟨c, .inl ht⟩
  · exact ⟨.badAccess, .inr hread⟩
  · exact absurd hsame hne

/-! ### NOT_INIT (60_exceptions.md R227) -/

section
variable {i : Instr} {s t : State}

/-- Of the ways to raise an error, only SEND before INIT has the code NOT_INIT. -/
theorem Raises.send_of_notInit (h : Raises i .notInit s) : Issues i .send ∧ s.status.initDone = false := by
  obtain ⟨-, -, ⟨⟩⟩ | ⟨-, -, -, ⟨⟩⟩ | ⟨-, -, ⟨⟩⟩ | ⟨hi, hinit, -⟩ | ⟨-, -, -, ⟨⟩⟩ | ⟨-, -, -, ⟨⟩⟩ | ⟨-, -, -, ⟨⟩⟩ |
    ⟨-, -, -, ⟨⟩⟩ := h
  exact ⟨hi, hinit⟩

/-- The code an operation appends to FAULTS is that of an error whose condition it meets, or BAD_ACCESS. -/
theorem Effect.raises_of_faults {c : ErrCode} (e : Effect i s t) (hf : t.faults = s.faults ++ [c])
    (hc : c ≠ .badAccess) : Raises i c s := by
  obtain ⟨c', hraises, rfl⟩ | ⟨-, rfl⟩ | hsame := e.error_cases
  · obtain rfl : c' = c := by simpa using hf
    exact hraises
  · exact absurd (by simpa using hf.symm) hc
  · simp [hsame] at hf

end

/-- Settles O25: an appended NOT_INIT comes from the one condition with that code, and SEND is spelt as itself or as its
word in CMD. -/
theorem onlySendRaisesNotInit : Obligations.OnlySendRaisesNotInit := by
  refine ⟨fun _ => exec_send_before_init, fun i s t h hf => ?_⟩
  have hraises : Raises i .notInit s := (exec_effect h).raises_of_faults hf (by decide)
  exact hraises.send_of_notInit.imp_left Issues.send_spellings

/-! ### Nothing is fatal (60_exceptions.md R232, R243) -/

/-- Every word written to CMD is answered, as a command or as an error. -/
theorem runCommand_answers (c : Word) (s : State) : ∃ t, runCommand c s = .next t := by
  obtain ⟨-, h⟩ | ⟨-, h⟩ | ⟨-, h⟩ | ⟨-, h⟩ | ⟨-, h⟩ | ⟨-, h⟩ | ⟨-, h⟩ := runCommand_cases c s <;> exact ⟨_, h⟩

theorem exec_regRd_answers (o : BitVec 8) (s : State) : ∃ t, exec (.regRd o) s = .next t := by
  obtain ⟨-, h⟩ | ⟨r, -, h⟩ := execRegRd_cases o s
  · exact ⟨_, h⟩
  · exact ⟨_, h⟩

theorem exec_regWr_answers (o : BitVec 8) (v : Word) (s : State) : ∃ t, exec (.regWr o v) s = .next t := by
  obtain ⟨-, h⟩ | ⟨-, h⟩ | ⟨-, h⟩ | ⟨r, -, h⟩ | h := execRegWr_cases o v s
  · exact ⟨_, h⟩
  · obtain ⟨t, ht⟩ := runCommand_answers v s
    exact ⟨t, h.trans ht⟩
  · exact ⟨_, h⟩
  · exact ⟨_, h⟩
  · exact ⟨_, h⟩

/-- Settles O26: the commands and the events answer by definition, register accesses in every case of the register map,
and an arrival by its length. -/
theorem nothingIsFatal : Obligations.NothingIsFatal := by
  intro i s
  cases i with
  | rxArrive bytes =>
    by_cases hlen : bytes.length = 16
    · exact .inl ⟨_, exec_rxArrive_frame hlen s⟩
    · exact .inr ⟨bytes, rfl, hlen, exec_rxArrive_wrong_length hlen s⟩
  | regRd o => exact .inl (exec_regRd_answers o s)
  | regWr o v => exact .inl (exec_regWr_answers o v s)
  | _ => exact .inl ⟨_, rfl⟩

end Sys2Proof.Machine
end

section
/-! Proofs of the statements of 70_reset_and_hazards.md: the reset input, the quiet block before INIT, the step with no
transaction left, and the inbound record while reception is held. -/

namespace Sys2Proof.Machine

/-! ### Reset and what runs after it (70_reset_and_hazards.md R250, R251) -/

theorem exec_reset (s : State) : exec .reset s = .next (resetUnder Config.hw s) := rfl

/-- Settles O1: RESET completes with each register at its reset value, and the two empty buffers read 0x00 everywhere. -/
theorem resetInputRestoresResetValues : Obligations.ResetInputRestoresResetValues :=
  ⟨rfl, fun s => ⟨_, exec_reset s, rfl, rfl, rfl, rfl, rfl, rfl, rfl, rfl, rfl, Memory.read_nil, Memory.read_nil, rfl,
    rfl⟩⟩

/-- Settles O51: what sends, arrives, is decoded or expires does so only after INIT, and INIT itself ends the premise. -/
theorem stepKeepsQuietBeforeInit : Obligations.StepKeepsQuietBeforeInit := fun _ _ => State.QuietBeforeInit.after_step

/-- Settles O33: with an empty schedule the step is a DECODE, which changes nothing while it is not enabled. -/
theorem idleStepIsTheReceiveService : Obligations.IdleStepIsTheReceiveService := fun _ hs =>
  ⟨step_idle hs, fun he => (step_idle hs).trans (exec_decode_not_enabled he)⟩

/-! ### Reception held (70_reset_and_hazards.md R261) -/

/-- A run that answers a next state is its first operation and then the rest of the run. -/
theorem runInstrs_cons_eq_next {i : Instr} {is : List Instr} {s u : State} :
    runInstrs (i :: is) s = .next u ↔ ∃ t, exec i s = .next t ∧ runInstrs is t = .next u := by
  cases h : exec i s <;> simp [runInstrs, h]

/-- A property that every operation of a run keeps holds at the end of the run if it holds at the start. -/
theorem runInstrs_keeps {P : State → Prop} {is : List Instr}
    (hexec : ∀ i ∈ is, ∀ s t, P s → exec i s = .next t → P t) {s t : State} (hrun : runInstrs is s = .next t)
    (hp : P s) : P t := by
  induction is generalizing s with
  | nil =>
    cases hrun
    exact hp
  | cons i is ih =>
    obtain ⟨u, hfirst, hrest⟩ := runInstrs_cons_eq_next.mp hrun
    exact ih (fun j hj => hexec j (List.mem_cons_of_mem i hj)) hrest (hexec i List.mem_cons_self s u hp hfirst)

/-- Reception is held in `t`, and a host reads there the inbound record of `s`. -/
def State.HeldWithInbound (s t : State) : Prop :=
  t.rxHold = true ∧ t.inrec = s.inrec ∧ t.status.inrecValid = s.status.inrecValid

/-- While reception is held no DECODE is enabled, so only RESET writes INREC, and only RESET and a CTRL write end the
hold. -/
theorem Effect.heldWithInbound {i : Instr} {r s t : State} (e : Effect i s t) (hreset : i ≠ .reset)
    (hctrl : ∀ v, i ≠ .regWr 0x00 v) (h : r.HeldWithInbound s) : r.HeldWithInbound t := by
  have hhold : s.rxHold = true := h.1
  cases e with
  | accepted _ he _ => cases (decodeEnabled_eq_false (.inr (.inr hhold))).symm.trans he
  | reset => exact absurd rfl hreset
  | ctrlWritten => exact absurd rfl (hctrl _)
  | _ => exact h

/-- Settles O38: each operation of the run leaves reception held and the inbound record as it was at the start. -/
theorem holdKeepsTheInboundRecord : Obligations.HoldKeepsTheInboundRecord := by
  intro is s t hhold hquiet hrun
  refine runInstrs_keeps (P := s.HeldWithInbound) (fun i hi u v hu hexec => ?_) hrun ⟨hhold, rfl, rfl⟩
  obtain ⟨hreset, hctrl⟩ := hquiet i hi
  exact (exec_effect hexec).heldWithInbound hreset hctrl hu

end Sys2Proof.Machine
end
